-- ==== Sys2Proof/Word.lean ====
section
/-!
DEFINITION. The words of the AIS Bit Framer: bits in time order, bytes, the 48-bit command word and the
4-bit micro-operation code (spec/00_scope.md R8, spec/30_encoding.md R60, R61).
-/

namespace Sys2Proof

/-- A bit sequence in time order, index 0 first (R8, R42). -/
abbrev Bits := List Bool

/-- An 8-bit value: a byte of `BY`, a character code, a channel ordinal (R8, R62). -/
abbrev Byte := BitVec 8

/-- One instruction as bits: a format H command word (R60) or a format U micro-operation code (R61). -/
inductive CodeWord
  | command (w : BitVec 48)
  | micro (c : BitVec 4)
  deriving DecidableEq, Repr

end Sys2Proof
end

