-- ==== Sys2Proof/Syntax.lean ====
section
/-!
DEFINITION. The instructions: the fourteen rows of spec/opcode_table.json, six host commands (format H) and
eight micro-operations of FIN (format U).
-/

namespace Sys2Proof

/-- One constructor per row of the opcode table; the operands are the fields of R62. -/
inductive Instr
  /-- CLR (R81): start a new payload. -/
  | clr
  /-- PKN `ch` (R82): supply a target packet with its channel ordinal. -/
  | pkn (ch : BitVec 8)
  /-- APF `value, width` (R85): append a field. -/
  | apf (value : BitVec 32) (width : BitVec 8)
  /-- TXC `c` (R86): stage one text character. -/
  | txc (c : BitVec 8)
  /-- APT `maxChars` (R89): append the staged text. -/
  | apt (maxChars : BitVec 8)
  /-- FIN (R150): finalize. -/
  | fin
  /-- U1 B2B (R101): payload bits to bytes. -/
  | b2b
  /-- U2 CRC (R103): the CRC of the payload bytes. -/
  | crc
  /-- U3 ACRC (R106): append the CRC. -/
  | acrc
  /-- U4 BREV (R116): reverse the bits of each byte. -/
  | brev
  /-- U5 STUF (R119): bit-stuff. -/
  | stuf
  /-- U6 WRAP (R131): ramp, training, flags. -/
  | wrap
  /-- U7 NRZI (R135): line-encode. -/
  | nrzi
  /-- U8 EMIT (R139): append to the packet and pad. -/
  | emit
  deriving DecidableEq, Repr

end Sys2Proof
end

