-- ==== Sys2Proof/WellFormed.lean ====
section
/-!
DEFINITION. The two formats, and well-formedness of an instruction: which port it may come from. The operands carry their widths in
their types, and R65 makes every width of APF well formed, so the format is the only check there is.
-/

namespace Sys2Proof

/-- The two instruction formats (R60, R61). -/
inductive Format
  /-- Format H: a 48-bit command word, issued by the host. -/
  | h
  /-- Format U: a 4-bit micro-operation code, never issued by the host. -/
  | u
  deriving DecidableEq, Repr

/-- The format of each row of the opcode table. -/
def Instr.format : Instr → Format
  | .clr => .h
  | .pkn _ => .h
  | .apf _ _ => .h
  | .txc _ => .h
  | .apt _ => .h
  | .fin => .h
  | .b2b => .u
  | .crc => .u
  | .acrc => .u
  | .brev => .u
  | .stuf => .u
  | .wrap => .u
  | .nrzi => .u
  | .emit => .u

/-- `i` is a well-formed instruction of format `f`: host commands are format H words, the micro-operations are format U
codes, "never issued by the host" (R60, R61). -/
def Instr.wellFormed (f : Format) (i : Instr) : Bool := decide (i.format = f)

/-- The host may issue `i` on the command port (R61). -/
abbrev Instr.issuable (i : Instr) : Bool := i.wellFormed .h

end Sys2Proof
end

