-- ==== Sys2Proof/Decode.lean ====
section
/-!
DEFINITION. Decoding and encoding of format H and format U (spec/30_encoding.md R60 to R66): a total decoder that
rejects by name, the encoder, and the opcode map of R63 as match and mask.
-/

namespace Sys2Proof

/-- Why a word is no instruction (R64, R66). -/
inductive DecodeError
  /-- `op` is 0x00 or in 0x07 to 0xFF (R64 a). -/
  | reservedOpcode (op : BitVec 8)
  /-- `a` is not zero in a row where it must be (R64 b). -/
  | nonzeroA (op : BitVec 8)
  /-- `d`, or for TXC `d[31:8]`, is not zero where it must be (R64 b). -/
  | nonzeroD (op : BitVec 8)
  /-- The code names no micro-operation: 0 and 9 to 15 (R66). -/
  | noMicroOp (code : BitVec 4)
  deriving DecidableEq, Repr

/-- Bits 47:40 (R60). -/
def opField (w : BitVec 48) : BitVec 8 := w.extractLsb' 40 8

/-- Bits 39:32 (R60). -/
def aField (w : BitVec 48) : BitVec 8 := w.extractLsb' 32 8

/-- Bits 31:0 (R60). -/
def dField (w : BitVec 48) : BitVec 32 := w.extractLsb' 0 32

/-- `i`, unless a must-be-zero field `a` or `d` of the row is not zero (R64 b). -/
def mustBeZero (op : BitVec 8) (a : BitVec 8) (d : BitVec 32) (i : Instr) : Except DecodeError Instr :=
  if a ≠ 0 then .error (.nonzeroA op) else if d ≠ 0 then .error (.nonzeroD op) else .ok i

/-- The host opcode map of R63 on the fields of R60, with the must-be-zero checks of R64. -/
def decodeFields (op a : BitVec 8) (d : BitVec 32) : Except DecodeError Instr :=
  if op = 0x01 then mustBeZero op a d .clr
  else if op = 0x02 then mustBeZero op 0 d (.pkn a)
  else if op = 0x03 then .ok (.apf d a)
  else if op = 0x04 then mustBeZero op a (d &&& 0xFFFFFF00) (.txc (d.setWidth 8))
  else if op = 0x05 then mustBeZero op 0 d (.apt a)
  else if op = 0x06 then mustBeZero op a d .fin
  else .error (.reservedOpcode op)

/-- Decoding of a command word (R67 steps 2 and 3). -/
def decodeCommand (w : BitVec 48) : Except DecodeError Instr :=
  decodeFields (opField w) (aField w) (dField w)

/-- The micro-operation map (R66). -/
def decodeMicro (c : BitVec 4) : Except DecodeError Instr :=
  match c.toNat with
  | 1 => .ok .b2b
  | 2 => .ok .crc
  | 3 => .ok .acrc
  | 4 => .ok .brev
  | 5 => .ok .stuf
  | 6 => .ok .wrap
  | 7 => .ok .nrzi
  | 8 => .ok .emit
  | _ => .error (.noMicroOp c)

/-- The decoder, total on the words of both formats (R64, R66). -/
def decode : CodeWord → Except DecodeError Instr
  | .command w => decodeCommand w
  | .micro c => decodeMicro c

/-- The instruction read from the bits `w` of an opcode-table row of `nbits` bits in whole bytes: a format U row has 4
bits (one byte here), a format H row is one 48-bit word (R60, R61). -/
def decodeTableWord (nbits w : Nat) : Option Instr :=
  if nbits ≤ 8 then
    if w < 16 then (decodeMicro (BitVec.ofNat 4 w)).toOption else none
  else
    if w < 2 ^ 48 then (decodeCommand (BitVec.ofNat 48 w)).toOption else none

/-- A command word from its three fields (R60). -/
def commandWord (op a : BitVec 8) (d : BitVec 32) : BitVec 48 := (op ++ a ++ d : BitVec (8 + 8 + 32))

/-- The encoder (R63, R66). -/
def encode : Instr → CodeWord
  | .clr => .command (commandWord 0x01 0 0)
  | .pkn ch => .command (commandWord 0x02 ch 0)
  | .apf value width => .command (commandWord 0x03 width value)
  | .txc c => .command (commandWord 0x04 0 (c.setWidth 32))
  | .apt maxChars => .command (commandWord 0x05 maxChars 0)
  | .fin => .command (commandWord 0x06 0 0)
  | .b2b => .micro 1
  | .crc => .micro 2
  | .acrc => .micro 3
  | .brev => .micro 4
  | .stuf => .micro 5
  | .wrap => .micro 6
  | .nrzi => .micro 7
  | .emit => .micro 8

/-- A row of the opcode map as the spec prints it: a word `w` selects it when `w AND mask = pattern` (R63). -/
structure OpRow where
  pattern : BitVec 48
  mask : BitVec 48
  deriving DecidableEq, Repr

/-- `w AND mask = match` (R63). -/
def OpRow.selects (r : OpRow) (w : BitVec 48) : Bool := decide (w &&& r.mask = r.pattern)

/-- The match and mask table of R63, in its order: CLR, PKN, APF, TXC, APT, FIN. -/
def opcodeRows : List OpRow :=
  [⟨0x010000000000, 0xFFFFFFFFFFFF⟩, ⟨0x020000000000, 0xFF00FFFFFFFF⟩, ⟨0x030000000000, 0xFF0000000000⟩,
   ⟨0x040000000000, 0xFFFFFFFFFF00⟩, ⟨0x050000000000, 0xFF00FFFFFFFF⟩, ⟨0x060000000000, 0xFFFFFFFFFFFF⟩]

/-- The row of R63 an instruction belongs to (none for the micro-operations, which are no rows of R63). -/
def Instr.row : Instr → Option OpRow
  | .clr => opcodeRows[0]?
  | .pkn _ => opcodeRows[1]?
  | .apf _ _ => opcodeRows[2]?
  | .txc _ => opcodeRows[3]?
  | .apt _ => opcodeRows[4]?
  | .fin => opcodeRows[5]?
  | .b2b => none
  | .crc => none
  | .acrc => none
  | .brev => none
  | .stuf => none
  | .wrap => none
  | .nrzi => none
  | .emit => none

end Sys2Proof
end

