-- ==== Sys2Proof/Config.lean ====
section
/-!
DEFINITION. What is fixed when the block is built (table T2 of spec/00_scope.md R5) and the one free
value of the model.
-/

namespace Sys2Proof

/-- Three bits in time order: a ramp (T1: ramp-up and ramp-down are 3 bits each). -/
structure Ramp where
  first : Bool
  second : Bool
  third : Bool
  deriving DecidableEq, Repr

/-- The ramp as a bit sequence. -/
def Ramp.bits (r : Ramp) : Bits := [r.first, r.second, r.third]

/-- The configuration record `Cfg` of R5: every row of table T2, with the spec's default. -/
structure Cfg where
  /-- `WCAP`: cells of `W`. -/
  wcap : Nat := 512
  /-- `PKT_CAP`: cells of `PKT.bits`. -/
  pktCap : Nat := 512
  /-- `TXT_CAP`: cells of `TXT`. -/
  txtCap : Nat := 32
  /-- `CH_W`: bits of the channel ordinal, fixed at 8 by the command format. -/
  chW : Nat := 8
  /-- `CRC_POLY` (D7). -/
  crcPoly : BitVec 16 := 0x1021
  /-- `CRC_INIT` (D7). -/
  crcInit : BitVec 16 := 0xFFFF
  /-- `CRC_REFIN` (D7). -/
  crcRefin : Bool := true
  /-- `CRC_REFOUT` (D7). -/
  crcRefout : Bool := true
  /-- `CRC_XOROUT` (D7). -/
  crcXorout : BitVec 16 := 0xFFFF
  /-- `RAMP_UP` (D11). -/
  rampUp : Ramp := ⟨true, true, true⟩
  /-- `RAMP_DOWN` (D11). -/
  rampDown : Ramp := ⟨false, false, false⟩
  /-- `PAD_BIT` (D13). -/
  padBit : Bool := false
  /-- `PAD_Q`, the pad quantum in bits (D13). -/
  padQ : Nat := 8
  deriving DecidableEq, Repr

/-- The default configuration, the one every vector of spec/95_test_vectors.md uses unless it says otherwise. -/
def Cfg.default : Cfg := {}

/-- The constraints table T2 puts on a configuration. -/
abbrev Cfg.wf (c : Cfg) : Prop :=
  (c.wcap % 8 = 0 ∧ 64 ≤ c.wcap ∧ c.wcap ≤ 32768) ∧ (48 ≤ c.pktCap ∧ c.pktCap ≤ 32768) ∧
    (1 ≤ c.txtCap ∧ c.txtCap ≤ 255) ∧ c.chW = 8 ∧ 1 ≤ c.padQ

/-- FREE VALUE: what the `TOVF` bit of `STATUS` reads as after the `n`-th fatal fault, where it was 1 before it
(R183: `TOVF` ceases to hold a value; R184: the status outputs remain readable). Log entry 5. -/
opaque Config.lostTovf : Nat → Bool

end Sys2Proof
end

