-- ==== Sys2Proof/Machine/State.lean ====
section
/-!
DEFINITION. The state of the block (table S1 of spec/10_state.md R10) as plain data, the reasons a step can stop,
and the state after reset (R30).
-/

namespace Sys2Proof.Machine

/-- The four fatal faults (R180). -/
inductive FatalCause
  /-- `F_WIDTH` (R188). -/
  | width
  /-- `F_OVERRUN` (R189). -/
  | overrun
  /-- `F_ALIGN` (R190). -/
  | align
  /-- `F_PKTCAP` (R191). -/
  | pktCap
  deriving DecidableEq, Repr

/-- The `err` of a response (R180): success, the recoverable errors, the refusal, the fatal faults (R181). The codes 5 to 7 and 12 to 15 are never produced (I17). -/
inductive Err
  /-- `OK`. -/
  | ok
  /-- `E_ILLEGAL` (R185). -/
  | illegal
  /-- `E_TEXTLEN` (R186). -/
  | textLen
  /-- `E_NOPKT` (R187). -/
  | noPkt
  /-- `E_HALTED` (R184). -/
  | halted
  /-- A fatal fault (R183). -/
  | fatal (c : FatalCause)
  deriving DecidableEq, Repr

/-- The response of a command: `ok`, and `err` as its reason (R6, R80). -/
structure Response where
  ok : Bool
  err : Err
  deriving DecidableEq, Repr

/-- The values of `STAGE` (R18): idle, or the micro-operation in execution. 9 to 15 never occur (I17). -/
inductive Stage
  | idle
  | b2b
  | crc
  | acrc
  | brev
  | stuf
  | wrap
  | nrzi
  | emit
  deriving DecidableEq, Repr

/-- The values of `PKT.st` (R22): NONE, OPEN, READY. 3 never occurs (I17). -/
inductive PktSt
  | noPacket
  | opened
  | ready
  deriving DecidableEq, Repr

/-- The data state that ceases to hold a value at a fatal fault (R183). Each buffer is the list of its valid cells, so its
length register is the list's length and no cell above it can be read (R11, R27). -/
structure Buffers where
  /-- `W[0..PLEN)`; `PLEN` is its length (R11, R12). -/
  w : Bits
  /-- `TXT[0..TLEN)`; `TLEN` is its length (R13). -/
  txt : List Byte
  /-- `BY[0..BLEN)`; `BLEN` is its length (R14). -/
  bytes : List Byte
  /-- `L[0..LLEN)`; `LLEN` is its length (R19). -/
  line : Bits
  /-- `RUN`; holds no value outside FIN (R16, R27). -/
  run : Option (BitVec 3)
  /-- `LVL`; holds no value outside FIN (R17, R27). -/
  lvl : Option Bool
  deriving DecidableEq, Repr

/-- What reaches the block from outside: a command word of the host (R6), or the reset event (R210). -/
inductive Input
  | command (w : BitVec 48)
  | reset
  deriving DecidableEq, Repr

/-- The machine: table S1 of R10, and the model's own fields `cfg`, `input`, `out` and `faultCount`. -/
structure State where
  /-- The MODEL's own: the configuration the block is built with; no step changes it (R5, R210). -/
  cfg : Cfg
  /-- `W`, `PLEN`, `TXT`, `TLEN`, `BY`, `BLEN`, `L`, `LLEN`, `RUN`, `LVL`; `none` once a fatal fault took their values. -/
  data : Option Buffers
  /-- `TOVF` (R13). -/
  tovf : Bool
  /-- `CRC` (R15). -/
  crc : BitVec 16
  /-- `STAGE`, the sequencer's program counter (R18). -/
  stage : Stage
  /-- `PKT.bits[0..PKT.len)`; `PKT.len` is its length; `none` where they hold no value (R20, R183). -/
  pktBits : Option Bits
  /-- `PKT.chan`; `none` where it holds no value (R21, R27). -/
  pktChan : Option (BitVec 8)
  /-- `PKT.st` (R22). -/
  pktSt : PktSt
  /-- `FATAL` (R24). -/
  fatal : Bool
  /-- `CAUSE`; `none` is the code 0 (R24). -/
  cause : Option FatalCause
  /-- `FSTAGE` (R24). -/
  fstage : Stage
  /-- `LASTERR` (R25). -/
  lastErr : Err
  /-- The MODEL's own: what the outside has yet to present, in order (R6, R48). -/
  input : List Input
  /-- The MODEL's own: the responses returned so far, oldest first (R6, R80). -/
  out : List Response
  /-- The MODEL's own: how many fatal faults there were, the index of the next free value (log entry 5). -/
  faultCount : Nat
  deriving DecidableEq, Repr

/-- Where the machine stops because the spec gives no next state. No run from reset reaches one. -/
inductive Fault
  /-- A micro-operation or command reads buffers that hold no value although `FATAL = 0`; raised by every meaning that reads
  `W`, `TXT`, `BY`, `L` or `PKT.len`. Only a fatal fault takes the values, and it halts the block (R183, R184). Safe. -/
  | noValue
  /-- `B2B` or `BREV` of a sequence that is no whole number of bytes, which R100 and R115 leave undefined; raised by U1, U3
  and U4. FIN never applies them so (R152). Safe. -/
  | raggedLength
  /-- EMIT without an OPEN packet, against its precondition (R139); raised by U8. FIN guarantees it (R150). Safe. -/
  | packetNotOpen
  deriving DecidableEq, Repr

/-- Why an instruction has no meaning. -/
inductive Refusal
  /-- The instruction has no meaning in the model yet; raised by an arm of `exec` only. Safe. -/
  | notModelled (mnemonic : String)
  deriving DecidableEq, Repr

/-- The buffers after reset: all lengths 0, `RUN` and `LVL` without a value (R30). -/
def Buffers.empty : Buffers :=
  { w := [], txt := [], bytes := [], line := [], run := none, lvl := none }

/-- The state after reset (R30, R210), built with the default configuration, nothing presented yet. -/
def State.reset : State :=
  { cfg := Cfg.default
    data := some Buffers.empty
    tovf := false
    crc := 0x0000
    stage := .idle
    pktBits := some []
    pktChan := none
    pktSt := .noPacket
    fatal := false
    cause := none
    fstage := .idle
    lastErr := .ok
    input := []
    out := []
    faultCount := 0 }

end Sys2Proof.Machine
end

