-- ==== Sys2Proof/Machine/Flags.lean ====
section
/-!
DEFINITION. The codes of the status fields, the `STATUS` word, the outputs the host and the radio driver see
(spec/10_state.md R22 to R25, spec/60_exceptions.md R180, spec/20_memory.md R41, R49).
-/

namespace Sys2Proof.Machine

/-- The 4-bit codes of the fatal faults (R180). -/
def FatalCause.code : FatalCause → BitVec 4
  | .width => 8
  | .overrun => 9
  | .align => 10
  | .pktCap => 11

/-- The 4-bit codes of R180. -/
def Err.code : Err → BitVec 4
  | .ok => 0
  | .illegal => 1
  | .textLen => 2
  | .noPkt => 3
  | .halted => 4
  | .fatal c => c.code

/-- The 4-bit value of `STAGE` (R18): 0 idle, 1 to 8 the micro-operation. -/
def Stage.code : Stage → BitVec 4
  | .idle => 0
  | .b2b => 1
  | .crc => 2
  | .acrc => 3
  | .brev => 4
  | .stuf => 5
  | .wrap => 6
  | .nrzi => 7
  | .emit => 8

/-- The stage with a given code, where there is one (R66). -/
def Stage.ofCode (c : BitVec 4) : Option Stage :=
  match c.toNat with
  | 0 => some .idle
  | 1 => some .b2b
  | 2 => some .crc
  | 3 => some .acrc
  | 4 => some .brev
  | 5 => some .stuf
  | 6 => some .wrap
  | 7 => some .nrzi
  | 8 => some .emit
  | _ => none

/-- The 2-bit value of `PKT.st` (R22). -/
def PktSt.code : PktSt → BitVec 2
  | .noPacket => 0
  | .opened => 1
  | .ready => 2

/-- The 4-bit value of `CAUSE`, 0 while there was no fatal fault (R24). -/
def causeCode : Option FatalCause → BitVec 4
  | none => 0
  | some c => c.code

/-- `STATUS`, the read-only 16-bit view of R23: `LASTERR`, `FSTAGE`, `CAUSE`, `TOVF`, `PKTST`, `FATAL` from bit 15 down. -/
def State.status (s : State) : BitVec 16 :=
  (s.lastErr.code ++ s.fstage.code ++ causeCode s.cause ++ BitVec.ofBool s.tovf ++ s.pktSt.code ++
    BitVec.ofBool s.fatal : BitVec (4 + 4 + 4 + 1 + 2 + 1))

/-- The output `PLEN`, a 16-bit register; no value after a fatal fault (R12, R23, R183). -/
def State.plen (s : State) : Option (BitVec 16) := s.data.map fun d => BitVec.ofNat 16 d.w.length

/-- The output `TLEN`, an 8-bit register; no value after a fatal fault (R13, R23, R183). -/
def State.tlen (s : State) : Option (BitVec 8) := s.data.map fun d => BitVec.ofNat 8 d.txt.length

/-- `BLEN`, a 16-bit register (R14). -/
def State.blen (s : State) : Option (BitVec 16) := s.data.map fun d => BitVec.ofNat 16 d.bytes.length

/-- `LLEN`, a 16-bit register (R19). -/
def State.llen (s : State) : Option (BitVec 16) := s.data.map fun d => BitVec.ofNat 16 d.line.length

/-- The output `PKT.len`, a 16-bit register (R20, R23). -/
def State.pktLen (s : State) : Option (BitVec 16) := s.pktBits.map fun q => BitVec.ofNat 16 q.length

/-- What the radio driver reads: the frame and its channel, while the packet is READY (R7, R49). -/
def State.radioView (s : State) : Option (Option Bits × Option (BitVec 8)) :=
  if s.pktSt = .ready then some (s.pktBits, s.pktChan) else none

end Sys2Proof.Machine
end

