-- ==== Sys2Proof/Machine/Ops.lean ====
section
/-!
DEFINITION. The named operations the meanings share: accesses to the five buffers (spec/20_memory.md), responses,
`fail`, TAKING A FATAL FAULT (`raise Fatal`, R183), the refusal of a halted block (R184), reset, which is the only way
back from a fatal fault (R210), and the guards every command and micro-operation runs behind (R80, R156).
-/

namespace Sys2Proof.Machine

/-- What executing an instruction answers. -/
abbrev Result := Host.Outcome State Fault Refusal

/-- `r`, and then `k` on the state it reached. -/
def andThen (r : Result) (k : State → Result) : Result :=
  match r with
  | .next s => k s
  | .fault f => .fault f
  | .refused f => .refused f

/-! ### Buffers -/

/-- The five address spaces of R40: `W`, `TXT`, `BY`, `L`, `PKT`. -/
inductive Space
  | w
  | txt
  | bytes
  | line
  | pkt
  deriving DecidableEq, Repr

/-- One cell of a space: a bit or an 8-bit value (R40). -/
inductive Cell
  | bit (b : Bool)
  | byte (v : Byte)
  deriving DecidableEq, Repr

/-- The valid cells of a space, where it holds values (R27, R40). -/
def State.cells (s : State) : Space → Option (List Cell)
  | .w => s.data.map fun d => d.w.map Cell.bit
  | .txt => s.data.map fun d => d.txt.map Cell.byte
  | .bytes => s.data.map fun d => d.bytes.map Cell.byte
  | .line => s.data.map fun d => d.line.map Cell.bit
  | .pkt => s.pktBits.map fun q => q.map Cell.bit

/-- `MemRead(space, i, n)`: cells `i` to `i+n-1`, defined only up to the space's length register (R8, R40). -/
def State.memRead (s : State) (sp : Space) (i n : Nat) : Option (List Cell) :=
  match s.cells sp with
  | none => none
  | some c => if i + n ≤ c.length then some ((c.drop i).take n) else none

/-- The capacity of a space in cells (R40). -/
def Cfg.capacity (c : Cfg) : Space → Nat
  | .w => c.wcap
  | .txt => c.txtCap
  | .bytes => c.wcap / 8
  | .line => c.wcap + 1
  | .pkt => c.pktCap

/-- The cells of one space are within its capacity. -/
def State.spaceWf (s : State) (sp : Space) : Bool :=
  match s.cells sp with
  | none => true
  | some c => decide (c.length ≤ Cfg.capacity s.cfg sp)

/-- Every length register is at most its buffer's capacity (R12, R13, R14, R19, R20). A buffer is the list of its valid
cells, so equal memories are equal data without a further canonical form. -/
def Memory.wf (s : State) : Bool :=
  s.spaceWf .w && s.spaceWf .txt && s.spaceWf .bytes && s.spaceWf .line && s.spaceWf .pkt

/-- `MemWrite` of the cells `v` at index `i` (R8, R40); the length register then covers them. Every rule checks the capacity
before it writes (R47) and starts at or below the length register. -/
def writeCells {α : Type} (cells : List α) (i : Nat) (v : List α) : List α :=
  cells.take i ++ v ++ cells.drop (i + v.length)

/-! ### Responses and errors -/

/-- `respond(ok, err)` (R8): the response leaves the block. -/
def State.respond (s : State) (ok : Bool) (err : Err) : State :=
  { s with out := s.out ++ [⟨ok, err⟩] }

/-- The end of a successful command: `respond(1, OK)`, `LASTERR` mirrors it (R25, R80). -/
def State.succeed (s : State) : State :=
  { s with lastErr := .ok }.respond true .ok

/-- `fail(E_x)` (R182): a recoverable error changes nothing but `LASTERR`. -/
def State.fail (s : State) (e : Err) : State :=
  { s with lastErr := e }.respond false e

/-- The response of a halted block (R184): no state changes, not even `LASTERR`. -/
def State.refuseHalted (s : State) : State :=
  s.respond false .halted

/-- `raise Fatal(F_x)`, trap entry (R183): `FATAL`, `CAUSE`, `FSTAGE` and `LASTERR` are written, an OPEN packet is lost, the
data buffers cease to hold a value, `STAGE`, `CRC` and a packet that is not OPEN are kept. -/
def State.raiseFatal (s : State) (c : FatalCause) : State :=
  { s with
    fatal := true
    cause := some c
    fstage := s.stage
    lastErr := .fatal c
    data := none
    tovf := s.tovf && Config.lostTovf s.faultCount
    pktSt := if s.pktSt = PktSt.opened then .noPacket else s.pktSt
    pktBits := if s.pktSt = PktSt.opened then none else s.pktBits
    pktChan := if s.pktSt = PktSt.opened then none else s.pktChan
    faultCount := s.faultCount + 1 }.respond false (.fatal c)

/-- Reset (R30, R210), the only exit from the halted state (R184): the whole state of table S1 is replaced; the
configuration and what lies outside the block stay. -/
def State.resetEvent (s : State) : State :=
  { State.reset with cfg := s.cfg, input := s.input, out := s.out, faultCount := s.faultCount }

/-! ### Guards -/

/-- The buffers, where they hold values. -/
def withData (s : State) (k : Buffers → Result) : Result :=
  match s.data with
  | none => .fault .noValue
  | some d => k d

/-- A host command: refused while `FATAL = 1`, its own rule otherwise (R80 steps 1 and 3). -/
def onCommand (s : State) (k : Result) : Result :=
  if s.fatal then .next s.refuseHalted else k

/-- A micro-operation: not executed once a fatal fault was raised (R156). -/
def onMicro (s : State) (k : Result) : Result :=
  if s.fatal then .next s else k

end Sys2Proof.Machine
end

