-- ==== Sys2Proof/Machine/Operands.lean ====
section
/-!
DEFINITION. What the packing commands make of their operands: `FIELD`, `SIXBIT` and `TEXT` (spec/40_packing.md).
-/

namespace Sys2Proof.Machine

/-- `FIELD(value, width)` (R84): the `width` least significant bits of `value`, most significant bit first. The rule gives it for a
32-bit value and a width of 1 to 32; for the rest see log entry 14. -/
def field {n : Nat} (value : BitVec n) : Nat → Bits
  | 0 => []
  | width + 1 => value.getLsbD width :: field value width

/-- `SIXBIT(c)` (R87, R90): codes from 64 on are reduced by 64, then the low six bits are taken. -/
def sixbit (c : Byte) : BitVec 6 :=
  (if 64 ≤ c.toNat then c - 64 else c).setWidth 6

/-- The six bits of each character, in string order (R88). -/
def textBits (chars : List Byte) : Bits :=
  chars.flatMap fun c => field (sixbit c) 6

/-- `TEXT(chars, maxChars)` (R88): the characters, then the six-bit code 0 up to `maxChars` characters. -/
def text (chars : List Byte) (maxChars : Nat) : Bits :=
  textBits chars ++ (List.replicate (maxChars - chars.length) (field (0 : BitVec 6) 6)).flatten

end Sys2Proof.Machine
end

