-- ==== Sys2Proof/Machine/Crc.lean ====
section
/-!
DEFINITION. Byte conversion and the CRC generator: the functions `B2B`, `CRC16`, `ACRC` and the micro-operations U1 B2B,
U2 CRC, U3 ACRC (spec/41_crc.md).
-/

namespace Sys2Proof.Machine

/-! ### Functions -/

/-- The byte of eight bits, the earlier the more significant (R100). -/
def byteOf (b7 b6 b5 b4 b3 b2 b1 b0 : Bool) : Byte :=
  BitVec.ofNat 8 (b7.toNat * 128 + b6.toNat * 64 + b5.toNat * 32 + b4.toNat * 16 +
    b3.toNat * 8 + b2.toNat * 4 + b1.toNat * 2 + b0.toNat)

/-- `B2B(s)` (R100), for a sequence of whole bytes. A shorter last group, for which `B2B` is undefined, is not converted; no
meaning applies `b2b` to such a sequence (`Fault.raggedLength`). -/
def b2b : Bits → List Byte
  | b7 :: b6 :: b5 :: b4 :: b3 :: b2 :: b1 :: b0 :: rest => byteOf b7 b6 b5 b4 b3 b2 b1 b0 :: b2b rest
  | _ => []

/-- `bitrev8(v)` (R8): bit `i` moves to bit `7-i`. -/
def bitrev8 (v : Byte) : Byte :=
  byteOf (v.getLsbD 0) (v.getLsbD 1) (v.getLsbD 2) (v.getLsbD 3) (v.getLsbD 4) (v.getLsbD 5) (v.getLsbD 6) (v.getLsbD 7)

/-- `reflect16(v)` (R8): bit `i` moves to bit `15-i`. -/
def reflect16 (v : BitVec 16) : BitVec 16 :=
  (bitrev8 (v.extractLsb' 0 8) ++ bitrev8 (v.extractLsb' 8 8) : BitVec (8 + 8))

/-- One shift of the register (R102). -/
def crcShift (poly r : BitVec 16) : BitVec 16 :=
  if r.getLsbD 15 then (r <<< 1) ^^^ poly else r <<< 1

/-- `n` shifts of the register (R102). -/
def crcShifts (poly : BitVec 16) : Nat → BitVec 16 → BitVec 16
  | 0, r => r
  | n + 1, r => crcShifts poly n (crcShift poly r)

/-- One byte into the register: XORed into bits 15:8, then eight shifts (R102). -/
def crcByte (cfg : Cfg) (r : BitVec 16) (b : Byte) : BitVec 16 :=
  let x := if cfg.crcRefin then bitrev8 b else b
  crcShifts cfg.crcPoly 8 (r ^^^ (x ++ (0 : BitVec 8) : BitVec (8 + 8)))

/-- `CRC16(bytes)` (R102). -/
def crc16 (cfg : Cfg) (bytes : List Byte) : BitVec 16 :=
  let r := bytes.foldl (crcByte cfg) cfg.crcInit
  (if cfg.crcRefout then reflect16 r else r) ^^^ cfg.crcXorout

/-- The 16 bits U3 appends for a CRC value: its low byte, then its high byte, each as an 8-bit field (R105, R106). -/
def crcTrailer (c : BitVec 16) : Bits :=
  field (c.extractLsb' 0 8) 8 ++ field (c.extractLsb' 8 8) 8

/-- `ACRC(s)` (R105). -/
def acrc (cfg : Cfg) (s : Bits) : Bits :=
  s ++ crcTrailer (crc16 cfg (b2b s))

/-! ### Micro-operations -/

/-- `k`, if `W` is a whole number of bytes; `B2B` and `BREV` are undefined otherwise (R100, R115). -/
def onWholeBytes (w : Bits) (k : Result) : Result :=
  if w.length % 8 = 0 then k else .fault .raggedLength

/-- U1 B2B (R101). -/
def execB2b (s : State) : Result :=
  onMicro s <| withData s fun d =>
    onWholeBytes d.w <| .next { s with data := some { d with bytes := b2b d.w }, stage := .crc }

/-- U2 CRC (R103). -/
def execCrc (s : State) : Result :=
  onMicro s <| withData s fun d =>
    .next { s with crc := crc16 s.cfg d.bytes, stage := .acrc }

/-- U3 ACRC (R106). -/
def execAcrc (s : State) : Result :=
  onMicro s <| withData s fun d =>
    if d.w.length + 16 > s.cfg.wcap then .next (s.raiseFatal .overrun)
    else
      let w := writeCells d.w d.w.length (crcTrailer s.crc)
      onWholeBytes w <| .next { s with data := some { d with w := w, bytes := b2b w }, stage := .brev }

end Sys2Proof.Machine
end

