-- ==== Sys2Proof/Machine/Stuffing.lean ====
section
/-!
DEFINITION. The bit-reversal unit and the bit-stuffing engine: `BREV`, `STUF`, U4 BREV, U5 STUF
(spec/42_bitrev_stuff.md).
-/

namespace Sys2Proof.Machine

/-! ### Functions -/

/-- `BREV(s)` (R115), for a sequence of whole bytes: each group of eight bits reversed in place. A shorter last group, for
which `BREV` is undefined, is left out; no meaning applies `brev` to such a sequence (`Fault.raggedLength`). -/
def brev : Bits → Bits
  | b0 :: b1 :: b2 :: b3 :: b4 :: b5 :: b6 :: b7 :: rest => b7 :: b6 :: b5 :: b4 :: b3 :: b2 :: b1 :: b0 :: brev rest
  | _ => []

/-- The scan of R118 from a run counter of `run`: its output. -/
def stufFrom : Nat → Bits → Bits
  | _, [] => []
  | _, false :: s => false :: stufFrom 0 s
  | run, true :: s => if run + 1 = 5 then true :: false :: stufFrom 0 s else true :: stufFrom (run + 1) s

/-- The scan of R118 from a run counter of `run`: the counter it leaves. -/
def runAfter : Nat → Bits → Nat
  | run, [] => run
  | _, false :: s => runAfter 0 s
  | run, true :: s => if run + 1 = 5 then runAfter 0 s else runAfter (run + 1) s

/-- `STUF(s)` (R118). -/
def stuf (s : Bits) : Bits := stufFrom 0 s

/-! ### Micro-operations -/

/-- U4 BREV (R116). -/
def execBrev (s : State) : Result :=
  onMicro s <| withData s fun d =>
    onWholeBytes d.w <|
      .next { s with data := some { d with w := writeCells d.w 0 (brev d.w), bytes := d.bytes.map bitrev8 }, stage := .stuf }

/-- U5 STUF (R119): `RUN` is left as the scan leaves it. -/
def execStuf (s : State) : Result :=
  onMicro s <| withData s fun d =>
    let t := stuf d.w
    if t.length > s.cfg.wcap then .next (s.raiseFatal .overrun)
    else
      .next { s with
        data := some { d with w := writeCells d.w 0 t, run := some (BitVec.ofNat 3 (runAfter 0 d.w)) }
        stage := .wrap }

end Sys2Proof.Machine
end

