-- ==== Sys2Proof/Machine/Line.lean ====
section
/-!
DEFINITION. HDLC flag insertion, NRZI encoder, packet output: `WRAP`, `NRZI`, `REQLEN`, `PAD`, U6 WRAP, U7 NRZI, U8 EMIT
(spec/43_hdlc_nrzi_emit.md).
-/

namespace Sys2Proof.Machine

/-! ### Functions -/

/-- `n` times the pair 0, 1. -/
def pairs01 : Nat → Bits
  | 0 => []
  | n + 1 => false :: true :: pairs01 n

/-- `TRAIN`: 24 alternating bits that begin with 0 (R130). -/
def train : Bits := pairs01 12

/-- `FLAG`: the byte 0x7E (R130). -/
def flag : Bits := field (0x7E : BitVec 8) 8

/-- What stands before the data in a wrapped sequence (R130). -/
def preamble (cfg : Cfg) : Bits := cfg.rampUp.bits ++ train ++ flag

/-- `WRAP(s)` (R130). -/
def wrap (cfg : Cfg) (s : Bits) : Bits :=
  preamble cfg ++ s ++ flag ++ cfg.rampDown.bits

/-- The level after an input bit: a 0 toggles, a 1 repeats (R134). -/
def nextLevel (lvl b : Bool) : Bool := if b then lvl else !lvl

/-- The levels after the start level `lvl` (R134). -/
def nrziFrom : Bool → Bits → Bits
  | _, [] => []
  | lvl, b :: s => nextLevel lvl b :: nrziFrom (nextLevel lvl b) s

/-- The level at which the encoding of `s` from `lvl` ends (R134). -/
def levelAfter (lvl : Bool) (s : Bits) : Bool := s.foldl nextLevel lvl

/-- `NRZI(s)` (R134): the start level 1 is output bit 0. -/
def nrzi (s : Bits) : Bits := true :: nrziFrom true s

/-- `REQLEN(n) = PAD_Q * ceil(n / PAD_Q)` (R138). -/
def reqLen (cfg : Cfg) (n : Nat) : Nat := cfg.padQ * ((n + cfg.padQ - 1) / cfg.padQ)

/-- `PAD(s)` (R138). -/
def pad (cfg : Cfg) (s : Bits) : Bits :=
  s ++ List.replicate (reqLen cfg s.length - s.length) cfg.padBit

/-! ### Micro-operations -/

/-- U6 WRAP (R131). -/
def execWrap (s : State) : Result :=
  onMicro s <| withData s fun d =>
    if d.w.length + 46 > s.cfg.wcap then .next (s.raiseFatal .overrun)
    else .next { s with data := some { d with w := writeCells d.w 0 (wrap s.cfg d.w) }, stage := .nrzi }

/-- U7 NRZI (R135): `LVL` is left as the scan leaves it. -/
def execNrzi (s : State) : Result :=
  onMicro s <| withData s fun d =>
    .next { s with data := some { d with line := nrzi d.w, lvl := some (levelAfter true d.w) }, stage := .emit }

/-- U8 EMIT (R139), for an OPEN packet, its precondition. -/
def execEmit (s : State) : Result :=
  onMicro s <| withData s fun d =>
    if s.pktSt ≠ PktSt.opened then .fault .packetNotOpen
    else
      match s.pktBits with
      | none => .fault .noValue
      | some q =>
        let n := q.length + d.line.length
        let m := reqLen s.cfg n
        if m > s.cfg.pktCap then .next (s.raiseFatal .pktCap)
        else
          .next { s with
            pktBits := some (writeCells (writeCells q q.length d.line) n (List.replicate (m - n) s.cfg.padBit))
            stage := .idle }

end Sys2Proof.Machine
end

