-- ==== Sys2Proof/Machine/Finalize.lean ====
section
/-!
DEFINITION. The FIN command and the finalize sequencer (spec/44_finalize.md).
-/

namespace Sys2Proof.Machine

/-- `FRAME(p)` (R151). -/
def frame (cfg : Cfg) (p : Bits) : Bits :=
  pad cfg (nrzi (wrap cfg (stuf (brev (acrc cfg p)))))

/-- The fatal fault FIN meets for the payload `p` and a packet holding `q`, and its step, in the order of R192; `none` where FIN
succeeds. -/
def finFault (cfg : Cfg) (q p : Bits) : Option (FatalCause × Stage) :=
  let stuffed := stuf (brev (acrc cfg p))
  if p.length % 8 ≠ 0 then some (.align, .b2b)
  else if p.length + 16 > cfg.wcap then some (.overrun, .acrc)
  else if stuffed.length > cfg.wcap then some (.overrun, .stuf)
  else if stuffed.length + 46 > cfg.wcap then some (.overrun, .wrap)
  else if reqLen cfg (q.length + (stuffed.length + 47)) > cfg.pktCap then some (.pktCap, .emit)
  else none

/-- The state after the completion of FIN (R150, R153): the payload is released, `RUN` and `LVL` hold no value between commands
(R16, R17), the packet is READY, the response is `(1, OK)`. -/
def State.complete (s : State) (d : Buffers) : State :=
  { s with
    data := some { d with w := [], bytes := [], line := [], run := none, lvl := none }
    pktSt := .ready }.succeed

/-- Completion after U8, unless a fatal fault ended the command (R153, R156). -/
def finish (s : State) : Result :=
  onMicro s <| withData s fun d => .next (s.complete d)

/-- FIN entry: `STAGE <- 1` (R154 a). -/
def State.enterFin (s : State) : State := { s with stage := .b2b }

/-- U1 to U8, each once, in order, each on the state the previous one left (R150). -/
def runStages (s : State) : Result :=
  andThen (andThen (andThen (andThen (andThen (andThen (andThen
    (execB2b s) execCrc) execAcrc) execBrev) execStuf) execWrap) execNrzi) execEmit

/-- FIN (R150), executed to completion as one atomic command (R6). -/
def execFin (s : State) : Result :=
  onCommand s <|
    if s.pktSt ≠ PktSt.opened then .next (s.fail .noPkt)
    else withData s fun d =>
      if d.w.length % 8 ≠ 0 then .next (s.enterFin.raiseFatal .align)
      else andThen (runStages s.enterFin) finish

end Sys2Proof.Machine
end

