-- ==== Sys2Proof/Machine/Packing.lean ====
section
/-!
DEFINITION. The packing commands CLR, PKN, APF, TXC and APT (spec/40_packing.md).
-/

namespace Sys2Proof.Machine

/-- The packet PKN supplies: OPEN, empty, tagged with its channel ordinal (R82). -/
def State.openPacket (s : State) (ch : BitVec 8) : State :=
  { s with pktBits := some [], pktChan := some ch, pktSt := .opened }

/-- Append `v` to `W` at index `PLEN`, where it fits (R85, R89); a longer `W` is the fatal fault `F_OVERRUN`, raised before
any write (R189). -/
def appendPayload (s : State) (d : Buffers) (v : Bits) : State :=
  if d.w.length + v.length > s.cfg.wcap then s.raiseFatal .overrun
  else { s with data := some { d with w := writeCells d.w d.w.length v } }.succeed

/-- CLR (R81). -/
def execClr (s : State) : Result :=
  onCommand s <| withData s fun d =>
    .next { s with data := some { d with w := [], txt := [] }, tovf := false }.succeed

/-- PKN `ch` (R82). -/
def execPkn (ch : BitVec 8) (s : State) : Result :=
  onCommand s <| .next (s.openPacket ch).succeed

/-- APF `value, width` (R85). -/
def execApf (value : BitVec 32) (width : BitVec 8) (s : State) : Result :=
  onCommand s <| withData s fun d =>
    if width.toNat < 1 ∨ width.toNat > 32 then .next (s.raiseFatal .width)
    else .next (appendPayload s d (field value width.toNat))

/-- TXC `c` (R86). -/
def execTxc (c : BitVec 8) (s : State) : Result :=
  onCommand s <| withData s fun d =>
    if d.txt.length = s.cfg.txtCap then .next ({ s with tovf := true }.fail .textLen)
    else .next { s with data := some { d with txt := writeCells d.txt d.txt.length [c] } }.succeed

/-- APT `maxChars` (R89): the staged string is consumed in every outcome. -/
def execApt (maxChars : BitVec 8) (s : State) : Result :=
  onCommand s <| withData s fun d =>
    let d' : Buffers := { d with txt := [] }
    let s' : State := { s with data := some d', tovf := false }
    if s.tovf = true ∨ d.txt.length > maxChars.toNat then .next (s'.fail .textLen)
    else .next (appendPayload s' d' (text d.txt maxChars.toNat))

end Sys2Proof.Machine
end

