-- ==== Sys2Proof/Machine/Fetch.lean ====
section
/-!
DEFINITION. Where the next step comes from: the sequencer's `STAGE`, or the command port; the decode procedure of R67;
and how a word is placed there.
-/

namespace Sys2Proof.Machine

/-- What the next step does. -/
inductive Action
  /-- Nothing is presented and no FIN is executing. -/
  | quiet
  /-- A reset event (R210). -/
  | reset
  /-- A command word at a halted block (R184). -/
  | refuse
  /-- An illegal command word (R64). -/
  | illegal
  /-- A command (R67 step 4). -/
  | command (i : Instr)
  /-- The micro-operation `STAGE` names (R18). -/
  | micro (i : Instr)
  deriving DecidableEq, Repr

/-- What the command port presents to a block that executes no FIN; `FATAL` is tested before the word is decoded (R67). -/
def portAction (s : State) : Action :=
  match s.input with
  | [] => .quiet
  | .reset :: _ => .reset
  | .command w :: _ =>
    if s.fatal then .refuse
    else
      match decode (.command w) with
      | .ok i => .command i
      | .error _ => .illegal

/-- The next step: a running block whose `STAGE` names a micro-operation executes that one, before anything the outside
presents (R6, R18, R66); otherwise the command port decides. -/
def State.action (s : State) : Action :=
  if s.fatal then portAction s
  else
    match decode (.micro s.stage.code) with
    | .ok i => .micro i
    | .error _ => portAction s

/-- The state with the first input taken from the port. -/
def State.takeInput (s : State) : State := { s with input := s.input.tail }

/-- What follows a micro-operation in FIN's sequence: after U8 the completion (R153), after any other nothing. -/
def afterMicro (i : Instr) (r : Result) : Result :=
  if i = .emit then andThen r finish else r

/-- `s` with the command word `w` presented next, to a block that executes no FIN. -/
def State.presentCommand (s : State) (w : BitVec 48) : State :=
  { s with stage := if s.fatal then s.stage else .idle, input := .command w :: s.input }

/-- `s` with the sequencer at the micro-operation of code `c`, in a FIN as R150 enters it: with an OPEN packet. A halted
block executes none, and a code that names no micro-operation changes nothing. -/
def State.presentMicro (s : State) (c : BitVec 4) : State :=
  match Stage.ofCode c with
  | none => s
  | some n =>
    if s.fatal ∨ n = .idle then s
    else { (if s.pktSt = .opened then s else s.openPacket 0) with stage := n }

end Sys2Proof.Machine
end

