-- ==== Sys2Proof/Machine/Dispatch.lean ====
section
/-!
DEFINITION. exec: one arm per constructor of Instr, each one call of its meaning.
-/

namespace Sys2Proof.Machine

def exec (i : Instr) (s : State) : Host.Outcome State Fault Refusal :=
  match i with
  | .clr => Sys2Proof.Machine.execClr s
  | .pkn ch => Sys2Proof.Machine.execPkn ch s
  | .apf value width => Sys2Proof.Machine.execApf value width s
  | .txc c => Sys2Proof.Machine.execTxc c s
  | .apt maxChars => Sys2Proof.Machine.execApt maxChars s
  | .fin => Sys2Proof.Machine.execFin s
  | .b2b => Sys2Proof.Machine.execB2b s
  | .crc => Sys2Proof.Machine.execCrc s
  | .acrc => Sys2Proof.Machine.execAcrc s
  | .brev => Sys2Proof.Machine.execBrev s
  | .stuf => Sys2Proof.Machine.execStuf s
  | .wrap => Sys2Proof.Machine.execWrap s
  | .nrzi => Sys2Proof.Machine.execNrzi s
  | .emit => Sys2Proof.Machine.execEmit s

end Sys2Proof.Machine
end

