-- ==== Sys2Proof/Machine/Step.lean ====
section
/-!
DEFINITION. One step of the machine, and the placing of an instruction where the next step fetches it.
-/

namespace Sys2Proof.Machine

/-- One step: a command of the host to completion (R6, R67, R80), a reset event (R210), one micro-operation of a FIN that is
executing (R18), or nothing. -/
def step (s : State) : Host.Outcome State Fault Refusal :=
  match s.action with
  | .quiet => .next s
  | .reset => .next s.takeInput.resetEvent
  | .refuse => .next s.takeInput.refuseHalted
  | .illegal => .next (s.takeInput.fail .illegal)
  | .command i => exec i s.takeInput
  | .micro i => afterMicro i (exec i s)

/-- `s` with the instruction of the opcode-table bits `w` where `step` fetches next: a format H word at the command port, a format
U code in `STAGE` (R60, R61). -/
def State.withFetchWord (s : State) (nbits w : Nat) : State :=
  if nbits ≤ 8 then s.presentMicro (BitVec.ofNat 4 w) else s.presentCommand (BitVec.ofNat 48 w)

end Sys2Proof.Machine
end

