-- ==== Sys2Proof/Machine/Assembler.lean ====
section
/-!
DEFINITION. The assembler notation of the spec (spec/30_encoding.md R68) and its pseudo-instructions (R69): what a written line
stands for. It is no part of the block.
-/

namespace Sys2Proof.Machine

/-- One line of R68 or R69, its operands read as numbers (a quoted character is its code). -/
inductive AsmLine
  | clr
  | pkn (ch : Nat)
  | apf (value : Int) (width : Nat)
  | txc (c : Nat)
  | apt (maxChars : Nat)
  | fin
  /-- `TEXT "s", n` (R69), the string as its 8-bit codes. -/
  | text (s : List Byte) (n : Nat)
  /-- `appendField(v, w)` (R69). -/
  | appendField (v : Int) (w : Nat)
  /-- `appendText(s, n)` (R69). -/
  | appendText (s : List Byte) (n : Nat)
  /-- `finalize` (R69). -/
  | finalize
  deriving DecidableEq, Repr

/-- An 8-bit operand: 0 to 255 (R68). -/
def asmByte (n : Nat) : Option Byte := if n < 256 then some (BitVec.ofNat 8 n) else none

/-- The value operand of APF: 0 to 0xFFFFFFFF, or a negative number down to -2^31, in 32-bit two's complement (R68). -/
def asmValue (v : Int) : Option (BitVec 32) :=
  if -(2 ^ 31) ≤ v ∧ v < 2 ^ 32 then some (BitVec.ofInt 32 v) else none

/-- `APF value, width` (R68). -/
def asmApf (value : Int) (width : Nat) : Option (List Instr) :=
  (asmValue value).bind fun v => (asmByte width).map fun w => [.apf v w]

/-- `TEXT "s", n`: one TXC for each character in order, then APT (R69). -/
def asmText (s : List Byte) (n : Nat) : Option (List Instr) :=
  (asmByte n).map fun m => s.map Instr.txc ++ [.apt m]

/-- The commands a line stands for; `none` for an operand outside its range (R68, R69). -/
def assemble : AsmLine → Option (List Instr)
  | .clr => some [.clr]
  | .pkn ch => (asmByte ch).map fun c => [.pkn c]
  | .apf value width => asmApf value width
  | .txc c => (asmByte c).map fun b => [.txc b]
  | .apt maxChars => (asmByte maxChars).map fun m => [.apt m]
  | .fin => some [.fin]
  | .text s n => asmText s n
  | .appendField v w => asmApf v w
  | .appendText s n => asmText s n
  | .finalize => some [.fin]

/-- The command words of a line; a micro-operation, which no line writes, has none (R61). -/
def assembleWords (l : AsmLine) : Option (List (BitVec 48)) :=
  (assemble l).map fun is => is.filterMap fun i => match encode i with | .command w => some w | .micro _ => none

end Sys2Proof.Machine
end

