-- ==== Sys2Proof/Machine/Invariant.lean ====
section
/-!
DEFINITION. The invariant of the block: what spec/10_state.md says holds of the registers at all times, of a running block, of a
halted block, of the packet, and of a FIN that is executing.
-/

namespace Sys2Proof.Machine

/-- The codes `LASTERR` may hold while `FATAL = 0` (R25): success or a recoverable error. -/
def Err.runningCode : Err → Bool
  | .ok => true
  | .illegal => true
  | .textLen => true
  | .noPkt => true
  | .halted => false
  | .fatal _ => false

/-- A running block: the data registers hold values, `CAUSE` and `FSTAGE` are 0 (R24), `LASTERR` is no fatal code (R25), and
`TOVF` says that `TXT` is full (R13). -/
abbrev State.runningOk (s : State) : Prop :=
  s.fatal = false →
    s.data.isSome ∧ s.cause = none ∧ s.fstage = .idle ∧ s.lastErr.runningCode = true ∧
      (s.tovf = true → ∀ d ∈ s.data, d.txt.length = s.cfg.txtCap)

/-- The steps at which each fatal fault is raised (R180). -/
def FatalCause.raisedAt : FatalCause → List Stage
  | .width => [.idle]
  | .overrun => [.idle, .acrc, .stuf, .wrap]
  | .align => [.b2b]
  | .pktCap => [.emit]

/-- A halted block: the data registers hold no value, `CAUSE` and `LASTERR` name the fault, `FSTAGE` is the step it was raised
at and `STAGE` still is, and no packet is OPEN (R24, R180, R183). -/
abbrev State.haltedOk (s : State) : Prop :=
  s.fatal = true →
    s.data = none ∧ (∃ c ∈ s.cause, s.lastErr = .fatal c ∧ s.fstage ∈ c.raisedAt) ∧ s.fstage = s.stage ∧
      s.pktSt ≠ PktSt.opened

/-- The packet: `PKT.chan` holds a value exactly while there is a packet (R21), an OPEN packet is empty (R139), a READY one is
padded to its required length (R138). -/
abbrev State.packetOk (s : State) : Prop :=
  (s.pktSt = PktSt.noPacket ↔ s.pktChan = none) ∧ (s.pktSt ≠ PktSt.noPacket → s.pktBits.isSome) ∧
    (s.pktSt = PktSt.opened → s.pktBits = some []) ∧
    (s.pktSt = PktSt.ready → ∀ q ∈ s.pktBits, q.length % s.cfg.padQ = 0)

/-- Between commands `BY` and `L` are empty and `RUN` and `LVL` hold no value (R14, R16, R17, R19). -/
abbrev State.idleOk (s : State) : Prop :=
  s.stage = .idle → ∀ d ∈ s.data, d.bytes = [] ∧ d.line = [] ∧ d.run = none ∧ d.lvl = none

/-- Inside FIN the packet is OPEN, and `W` is a whole number of bytes up to U4 (R44, R150, R152); `RUN` is 0 to 4 between
bits (R16). -/
abbrev State.sequencerOk (s : State) : Prop :=
  s.fatal = false → s.stage ≠ .idle →
    s.pktSt = PktSt.opened ∧
      ∀ d ∈ s.data, (s.stage ∈ [Stage.b2b, .crc, .acrc, .brev] → d.w.length % 8 = 0) ∧ ∀ r ∈ d.run, r.toNat ≤ 4

/-- The invariant: it holds after reset and every step keeps it. -/
structure State.Inv (s : State) : Prop where
  cfg : s.cfg.wf
  memory : Memory.wf s = true
  running : s.runningOk
  halted : s.haltedOk
  packet : s.packetOk
  idle : s.idleOk
  sequencer : s.sequencerOk

end Sys2Proof.Machine
end

