-- ==== Sys2Proof/Machine/Reference.lean ====
section
/-!
DEFINITION. The inverse reference functions of spec/45_properties.md R165 and the right-shifting CRC of R104. The hardware does
not implement them; the laws of the block are stated with them.
-/

namespace Sys2Proof.Machine

/-- The right-shifting register step of R104. -/
def fcsShift (r : BitVec 16) : BitVec 16 :=
  if r.getLsbD 0 then (r >>> 1) ^^^ 0x8408 else r >>> 1

/-- `n` right shifts (R104). -/
def fcsShifts : Nat → BitVec 16 → BitVec 16
  | 0, r => r
  | n + 1, r => fcsShifts n (fcsShift r)

/-- One byte into bits 7:0, then eight right shifts (R104). -/
def fcsByte (r : BitVec 16) (b : Byte) : BitVec 16 := fcsShifts 8 (r ^^^ b.setWidth 16)

/-- The right-shifting form of the default `CRC16` (R104). -/
def fcs16 (bytes : List Byte) : BitVec 16 := bytes.foldl fcsByte 0xFFFF ^^^ 0xFFFF

/-- `NRZI_DEC(t)` (R165): a 1 where two successive levels are equal. R165 gives it for `|t| ≥ 1` only; that the empty sequence decodes
to the empty one is the model's choice (DESIGN CHOICE, log entry 14). -/
def nrziDec : Bits → Bits
  | [] => []
  | [_] => []
  | a :: b :: t => (a == b) :: nrziDec (b :: t)

/-- The bits before the first occurrence of the flag, where there is one (R165, `UNWRAP`). -/
def upToFlag : Bits → Option Bits
  | [] => none
  | b :: s => if flag.isPrefixOf (b :: s) then some [] else (upToFlag s).map (b :: ·)

/-- `UNWRAP(d)` (R165); `none` where its requirement fails. -/
def unwrap (d : Bits) : Option Bits :=
  if (d.drop 27).take 8 = flag then upToFlag (d.drop 35) else none

/-- The scan of `UNSTUF` from a run counter of `run` (R165): after a fifth 1 the next bit, if there is one, is
skipped, and must be 0. That the sequence may end right after a fifth 1 is the model's choice (DESIGN CHOICE, log entry 7). -/
def unstufFrom : Nat → Bits → Option Bits
  | _, [] => some []
  | run, b :: s =>
    if run = 5 then (if b then none else unstufFrom 0 s)
    else (unstufFrom (if b then run + 1 else 0) s).map (b :: ·)

/-- `UNSTUF(s)` (R165); `none` where it fails. -/
def unstuf (s : Bits) : Option Bits := unstufFrom 0 s

/-- `STRIPCRC(v)` (R165); `none` where a requirement fails. -/
def stripCrc (cfg : Cfg) (v : Bits) : Option Bits :=
  let bytes := b2b v
  let k := bytes.length
  if v.length % 8 = 0 ∧ 16 ≤ v.length ∧
      (bytes.getD (k - 2) 0).toNat + 256 * (bytes.getD (k - 1) 0).toNat = (crc16 cfg (bytes.take (k - 2))).toNat then
    some (v.take (v.length - 16))
  else none

/-- The value of a bit sequence, first bit most significant. -/
def bitsValue (s : Bits) : Nat := s.foldl (fun n b => 2 * n + b.toNat) 0

/-- `UNFIELD(s, i, width)` (R165). Where `s` has fewer than `i + width` bits, the value of those there are is the model's choice
(DESIGN CHOICE, log entry 14). -/
def unfield (s : Bits) (i width : Nat) : Nat := bitsValue ((s.drop i).take width)

/-- `STRIPCRC(BREV(y))`, the end of `UNFRAME` (R165). `BREV` is undefined where `y` is no whole number of bytes (R115), and `STRIPCRC`
asks for whole bytes; that un-framing then fails is the model's choice (DESIGN CHOICE, log entry 14). -/
def unreverse (cfg : Cfg) (y : Bits) : Option Bits :=
  if y.length % 8 = 0 then stripCrc cfg (brev y) else none

/-- `UNFRAME(t)` (R165); `none` where one of its parts fails. -/
def unframe (cfg : Cfg) (t : Bits) : Option Bits :=
  (unwrap (nrziDec t)).bind fun x => (unstuf x).bind (unreverse cfg)

/-- `s` contains six consecutive 1 bits. -/
def hasSixOnes (s : Bits) : Prop := List.replicate 6 true <:+: s

end Sys2Proof.Machine
end

