-- ==== Sys2Proof/Safety.lean ====
section
/-!
DEFINITION. The terms the statements use: what a running block is, and what counts as a safe step.
-/

namespace Sys2Proof.Machine

/-- A running block whose data registers hold the values `d` (R183, R196). -/
abbrev State.Running (s : State) (d : Buffers) : Prop := s.fatal = false ∧ s.data = some d

/-- The block completes its next step: it neither stops nor refuses (R198, R221). -/
def State.Completes (s : State) : Prop := ∃ t, step s = .next t

/-- `n` steps of the machine, stopping at the first fault or refusal. -/
def run (n : Nat) (s : State) : Host.Outcome State Fault Refusal := Host.Core.run core n s

end Sys2Proof.Machine
end

