-- ==== Sys2Proof/Certificates/Slice0/Obligations.lean ====
section
/-!
DEFINITION. The statements for the provers. Each docstring names the rules it rests on; OBLIGATIONS.json lists them.
-/

section

open Sys2Proof Sys2Proof.Machine

/-! ### Encoding (spec/30_encoding.md) -/

/-- R60 to R66: decoding the encoding of any instruction gives it back, and the encoding is a command word exactly for the
instructions the host may issue. -/
def Obligations.DecodeOfEncode : Prop :=
  ∀ i : Instr, decode (encode i) = .ok i ∧ (i.issuable = true ↔ ∃ w, encode i = .command w)

/-- R60 to R66: a word that decodes is the encoding of what it decodes to, so no two words mean the same instruction. -/
def Obligations.EncodeOfDecode : Prop :=
  ∀ (c : CodeWord) (i : Instr), decode c = .ok i → encode i = c

/-- R63, R64: a command word is legal exactly if it selects one row of the match and mask table, never more than one, and it
decodes to an instruction of that row. -/
def Obligations.LegalWordsSelectOneRow : Prop :=
  ∀ w : BitVec 48,
    (opcodeRows.filter fun r => r.selects w).length ≤ 1 ∧
      ((∃ i, decode (.command w) = .ok i) ↔ ∃ r ∈ opcodeRows, r.selects w = true) ∧
      ∀ i, decode (.command w) = .ok i → ∃ r, i.row = some r ∧ r.selects w = true

/-- The worked encodings of R70 and the micro-operation map of R66 decode to what the spec writes beside them. -/
def Obligations.WrittenWordsDecode : Prop :=
  decode (.command 0x010000000000) = .ok .clr ∧ decode (.command 0x020100000000) = .ok (.pkn 1) ∧
    decode (.command 0x0320FBA0C490) = .ok (.apf 0xFBA0C490 32) ∧ decode (.command 0x040000000041) = .ok (.txc 65) ∧
    decode (.command 0x051400000000) = .ok (.apt 20) ∧ decode (.command 0x060000000000) = .ok .fin ∧
    decode (.micro 0b0001) = .ok .b2b ∧ decode (.micro 0b0010) = .ok .crc ∧ decode (.micro 0b0011) = .ok .acrc ∧
    decode (.micro 0b0100) = .ok .brev ∧ decode (.micro 0b0101) = .ok .stuf ∧ decode (.micro 0b0110) = .ok .wrap ∧
    decode (.micro 0b0111) = .ok .nrzi ∧ decode (.micro 0b1000) = .ok .emit

/-! ### The step, responses, the halted state, reset -/

/-- A running block that executes no FIN and is presented a legal word takes it and executes its command. -/
def Obligations.StepRunsPresentedCommand : Prop :=
  ∀ (s : State) (w : BitVec 48) (rest : List Input) (i : Instr),
    s.fatal = false → s.stage = .idle → s.input = .command w :: rest → decode (.command w) = .ok i →
      step s = exec i { s with input := rest }

/-- A running block whose `STAGE` names a micro-operation executes it; after U8 the step goes on to the completion of FIN, unless
the micro-operation raised a fatal fault. The step's granularity is the model's choice (log entry 3). -/
def Obligations.StepRunsMicroOperation : Prop :=
  ∀ (s : State) (i : Instr), s.fatal = false → decode (.micro s.stage.code) = .ok i →
    (i ≠ .emit → step s = exec i s) ∧
      ∀ (t : State) (d : Buffers), i = .emit → exec i s = .next t →
        (t.fatal = true → step s = .next t) ∧
          (t.fatal = false → t.data = some d →
            step s = .next
              { t with
                data := some { d with w := [], bytes := [], line := [], run := none, lvl := none }
                pktSt := .ready
                lastErr := .ok
                out := t.out ++ [⟨true, .ok⟩] })

/-- R64, R185: an illegal word at a running block is a recoverable error that changes nothing but `LASTERR`. -/
def Obligations.IllegalWordFails : Prop :=
  ∀ (s : State) (w : BitVec 48) (rest : List Input) (e : DecodeError),
    s.fatal = false → s.stage = .idle → s.input = .command w :: rest → decode (.command w) = .error e →
      step s = .next { s with input := rest, lastErr := .illegal, out := s.out ++ [⟨false, .illegal⟩] }

/-- R184: a halted block answers every command word, legal or not, with `E_HALTED` and changes no state; a step leaves the
halted state only by a reset event, and a reset event leaves it. -/
def Obligations.HaltedBlockRefusesCommands : Prop :=
  ∀ s : State, s.fatal = true →
    (∀ w rest, s.input = .command w :: rest →
        step s = .next { s with input := rest, out := s.out ++ [⟨false, .halted⟩] }) ∧
      (∀ t, step s = .next t → (t.fatal = false ↔ ∃ rest, s.input = .reset :: rest))

/-- R184, R156: in the halted state no instruction has its effect: a command is refused, a micro-operation is not executed. -/
def Obligations.HaltedBlockExecutesNothing : Prop :=
  ∀ (i : Instr) (s : State), s.fatal = true →
    exec i s = .next (if i.issuable then { s with out := s.out ++ [⟨false, .halted⟩] } else s)

/-- R184: over any number of steps without a reset event a halted block stays halted: the status word, `CAUSE`, `FSTAGE` and
what the radio driver sees never change. -/
def Obligations.HaltedUntilReset : Prop :=
  ∀ (n : Nat) (s : State), s.fatal = true → Input.reset ∉ s.input →
    ∃ t, Machine.run n s = .next t ∧ t.fatal = true ∧ t.cause = s.cause ∧ t.fstage = s.fstage ∧
      t.status = s.status ∧ t.radioView = s.radioView ∧ t.crc = s.crc

/-- R210, R30: a reset event replaces the whole state by the reset state, in the halted state too; the configuration is not
affected. What lies outside the block (the inputs to come, the responses returned, the free-value index) stays. -/
def Obligations.ResetReplacesState : Prop :=
  ∀ (s : State) (rest : List Input), (s.fatal = true ∨ s.stage = .idle) → s.input = .reset :: rest →
    step s = .next
      { cfg := s.cfg
        data := some { w := [], txt := [], bytes := [], line := [], run := none, lvl := none }
        tovf := false, crc := 0, stage := .idle, pktBits := some [], pktChan := none, pktSt := .noPacket
        fatal := false, cause := none, fstage := .idle, lastErr := .ok
        input := rest, out := s.out, faultCount := s.faultCount }

/-- R30: what the registers and outputs read after reset. -/
def Obligations.ResetRegisterValues : Prop :=
  State.reset.plen = some 0 ∧ State.reset.tlen = some 0 ∧ State.reset.blen = some 0 ∧ State.reset.llen = some 0 ∧
    State.reset.pktLen = some 0 ∧ State.reset.tovf = false ∧ State.reset.stage.code = 0 ∧
    State.reset.pktSt.code = 0 ∧ State.reset.status = 0 ∧ State.reset.crc = 0 ∧ State.reset.pktChan = none ∧
    (∀ d ∈ State.reset.data, d.run = none ∧ d.lvl = none) ∧
    ∀ sp, State.reset.cells sp = some []

/-- The reset state meets the invariant. -/
def Obligations.ResetMeetsInvariant : Prop := State.reset.Inv

/-- Every step from every state that meets the invariant leads to a state that meets it. -/
def Obligations.StepKeepsInvariant : Prop :=
  ∀ s t : State, s.Inv → step s = .next t → t.Inv

/-- R198, R221: from every state that meets the invariant the step completes: no fault of the model and no refusal is
ever met. -/
def Obligations.StepAlwaysCompletes : Prop :=
  ∀ s : State, s.Inv → s.Completes

/-- R80, R25: a command takes one word from the port and returns exactly one response; `ok` says whether `err` is 0, and `LASTERR`
receives the same `err`, unless the command was refused by a halted block. -/
def Obligations.OneResponsePerCommand : Prop :=
  ∀ (s : State) (w : BitVec 48) (rest : List Input),
    s.Inv → (s.fatal = true ∨ s.stage = .idle) → s.input = .command w :: rest →
      ∃ (t : State) (r : Response),
        step s = .next t ∧ t.input = rest ∧ t.out = s.out ++ [r] ∧ (r.ok = true ↔ r.err = .ok) ∧
          (s.fatal = false → t.lastErr = r.err) ∧ (s.fatal = true → r.err = .halted ∧ t.lastErr = s.lastErr)

/-- R183: what taking a fatal fault saves, loses and keeps. -/
def Obligations.FatalFaultEntry : Prop :=
  ∀ (s : State) (c : FatalCause),
    let t := s.raiseFatal c
    t.fatal = true ∧ t.cause = some c ∧ t.fstage = s.stage ∧ t.lastErr = .fatal c ∧ t.stage = s.stage ∧ t.crc = s.crc ∧
      t.data = none ∧ (∀ sp, sp ≠ Space.pkt → t.cells sp = none) ∧
      t.out = s.out ++ [⟨false, .fatal c⟩] ∧ t.cfg = s.cfg ∧ t.input = s.input ∧
      (s.pktSt = PktSt.opened → t.pktSt = PktSt.noPacket ∧ t.pktBits = none ∧ t.pktChan = none) ∧
      (s.pktSt ≠ PktSt.opened → t.pktSt = s.pktSt ∧ t.pktBits = s.pktBits ∧ t.pktChan = s.pktChan)

/-- R23: the fields of `STATUS`, by their bits. -/
def Obligations.StatusWordFields : Prop :=
  ∀ s : State,
    s.status.getLsbD 0 = s.fatal ∧ s.status.extractLsb' 1 2 = s.pktSt.code ∧ s.status.getLsbD 3 = s.tovf ∧
      s.status.extractLsb' 4 4 = causeCode s.cause ∧ s.status.extractLsb' 8 4 = s.fstage.code ∧
      s.status.extractLsb' 12 4 = s.lastErr.code

/-! ### The packing commands (spec/40_packing.md) -/

/-- R81: CLR. -/
def Obligations.ClrEmptiesPayload : Prop :=
  ∀ (s : State) (d : Buffers), s.Running d →
    exec .clr s = .next
      { s with data := some { d with w := [], txt := [] }, tovf := false, lastErr := .ok, out := s.out ++ [⟨true, .ok⟩] }

/-- R82: PKN, in every packet state. -/
def Obligations.PknOpensPacket : Prop :=
  ∀ (s : State) (ch : BitVec 8), s.fatal = false →
    exec (.pkn ch) s = .next
      { s with pktBits := some [], pktChan := some ch, pktSt := .opened, lastErr := .ok, out := s.out ++ [⟨true, .ok⟩] }

/-- R84: element `i` of `FIELD(value, width)` is bit `width-1-i` of `value`, and there are `width` of them. -/
def Obligations.FieldIsMostSignificantFirst : Prop :=
  ∀ (value : BitVec 32) (width : Nat), 1 ≤ width → width ≤ 32 →
    (field value width).length = width ∧ ∀ i, i < width → (field value width)[i]? = some (value.getLsbD (width - 1 - i))

/-- R85: APF appends the field where it fits, raises `F_WIDTH` for a width outside 1 to 32, and then `F_OVERRUN` for a field that
does not fit. -/
def Obligations.ApfAppendsFieldOrFaults : Prop :=
  ∀ (s : State) (d : Buffers) (value : BitVec 32) (width : BitVec 8), s.Running d →
    (1 ≤ width.toNat → width.toNat ≤ 32 → d.w.length + width.toNat ≤ s.cfg.wcap →
        exec (.apf value width) s = .next
          { s with
            data := some { d with w := d.w ++ field value width.toNat }
            lastErr := .ok
            out := s.out ++ [⟨true, .ok⟩] }) ∧
      (width.toNat < 1 ∨ 32 < width.toNat → exec (.apf value width) s = .next (s.raiseFatal .width)) ∧
      (1 ≤ width.toNat → width.toNat ≤ 32 → s.cfg.wcap < d.w.length + width.toNat →
        exec (.apf value width) s = .next (s.raiseFatal .overrun))

/-- R40, R85: an APF that succeeds writes exactly the cells `W[PLEN..PLEN+width)`; every cell of every space outside them reads as
before. -/
def Obligations.ApfWritesOnlyItsCells : Prop :=
  ∀ (s t : State) (d : Buffers) (value : BitVec 32) (width : BitVec 8), s.Running d →
    exec (.apf value width) s = .next t → t.fatal = false →
      (t.memRead .w d.w.length width.toNat = some ((field value width.toNat).map Cell.bit)) ∧
        ∀ (sp : Space) (i : Nat), (sp = .w → i < d.w.length ∨ d.w.length + width.toNat ≤ i) →
          t.memRead sp i 1 = s.memRead sp i 1

/-- R86: TXC stages one character, or sets `TOVF` and fails where the staging buffer is full. -/
def Obligations.TxcStagesCharacterOrFails : Prop :=
  ∀ (s : State) (d : Buffers) (c : BitVec 8), s.Running d →
    (d.txt.length ≠ s.cfg.txtCap →
        exec (.txc c) s = .next
          { s with data := some { d with txt := d.txt ++ [c] }, lastErr := .ok, out := s.out ++ [⟨true, .ok⟩] }) ∧
      (d.txt.length = s.cfg.txtCap →
        exec (.txc c) s = .next { s with tovf := true, lastErr := .textLen, out := s.out ++ [⟨false, .textLen⟩] })

/-- R87, R88: `SIXBIT(c)` is `c mod 64`. `TEXT(chars, maxChars)` has `6*maxChars` bits; the six from `6*k` on are those of
`SIXBIT(chars[k])`, and of the code 0 past the end of the string. -/
def Obligations.TextFieldBits : Prop :=
  (∀ c : Byte, (sixbit c).toNat = c.toNat % 64) ∧
    ∀ (chars : List Byte) (maxChars : Nat), chars.length ≤ maxChars →
      (text chars maxChars).length = 6 * maxChars ∧
        ∀ k, k < maxChars →
          ((text chars maxChars).drop (6 * k)).take 6 = field (match chars[k]? with | some c => sixbit c | none => 0) 6

/-- R89: APT consumes the staged string in every outcome; it appends the text, or fails leaving the payload as it was, or raises
`F_OVERRUN`; the string's length is tested first. -/
def Obligations.AptAppendsTextOrFails : Prop :=
  ∀ (s : State) (d : Buffers) (maxChars : BitVec 8), s.Running d →
    (s.tovf = false → d.txt.length ≤ maxChars.toNat → d.w.length + 6 * maxChars.toNat ≤ s.cfg.wcap →
        exec (.apt maxChars) s = .next
          { s with
            data := some { d with w := d.w ++ text d.txt maxChars.toNat, txt := [] }
            tovf := false
            lastErr := .ok
            out := s.out ++ [⟨true, .ok⟩] }) ∧
      (s.tovf = true ∨ maxChars.toNat < d.txt.length →
        exec (.apt maxChars) s = .next
          { s with
            data := some { d with txt := [] }
            tovf := false
            lastErr := .textLen
            out := s.out ++ [⟨false, .textLen⟩] }) ∧
      (s.tovf = false → d.txt.length ≤ maxChars.toNat → s.cfg.wcap < d.w.length + 6 * maxChars.toNat →
        exec (.apt maxChars) s = .next (State.raiseFatal { s with tovf := false } .overrun))

/-- R69, R86, R89: the pseudo-instruction `TEXT s, n` presented to a running, idle block with no staged text, run to the
response of its APT. It appends `TEXT(s, n)` as one field; or, where the string is longer than `n` or than the staging buffer,
its last response is `E_TEXTLEN` and the payload is as it was, with nothing left staged; or, where only the room is lacking, it
raises `F_OVERRUN`. -/
def Obligations.TextPseudoInstruction : Prop :=
  ∀ (s : State) (d : Buffers) (chars : List Byte) (n : Nat) (rest : List Input) (words : List (BitVec 48)),
    s.Running d → s.stage = .idle → d.txt = [] → s.tovf = false →
      assembleWords (.text chars n) = some words → s.input = words.map Input.command ++ rest →
      let k := chars.length
      let staged := s.out ++ List.replicate (min k s.cfg.txtCap) ⟨true, .ok⟩ ++
        List.replicate (k - s.cfg.txtCap) ⟨false, .textLen⟩
      let u : State := { s with input := rest, out := staged }
      words.length = k + 1 ∧
        Machine.run (k + 1) s =
          if n < k ∨ s.cfg.txtCap < k then .next { u with lastErr := .textLen, out := staged ++ [⟨false, .textLen⟩] }
          else if s.cfg.wcap < d.w.length + 6 * n then .next (u.raiseFatal .overrun)
          else
            .next { u with
              data := some { d with w := d.w ++ text chars n }, lastErr := .ok, out := staged ++ [⟨true, .ok⟩] }

/-! ### The micro-operations (spec/41_crc.md, 42_bitrev_stuff.md, 43_hdlc_nrzi_emit.md) -/

/-- R101: U1 B2B on a payload of whole bytes. -/
def Obligations.B2bConvertsPayload : Prop :=
  ∀ (s : State) (d : Buffers), s.Running d → d.w.length % 8 = 0 →
    exec .b2b s = .next { s with data := some { d with bytes := b2b d.w }, stage := .crc }

/-- R100: byte `k` of `B2B(s)` is the value of the eight bits from `8k` on, the earlier the more significant. -/
def Obligations.B2bBytes : Prop :=
  ∀ s : Bits, s.length % 8 = 0 →
    (b2b s).length = s.length / 8 ∧
      ∀ k, k < s.length / 8 → ∃ b, (b2b s)[k]? = some b ∧
        ∀ j, j < 8 → s[8 * k + j]? = some (b.getLsbD (7 - j))

/-- R103: U2 CRC. -/
def Obligations.CrcCoversBytes : Prop :=
  ∀ (s : State) (d : Buffers), s.Running d →
    exec .crc s = .next { s with crc := crc16 s.cfg d.bytes, stage := .acrc }

/-- R106: U3 ACRC appends the low byte, then the high byte, and reconverts; where the trailer does not fit it raises
`F_OVERRUN`. -/
def Obligations.AcrcAppendsTrailerOrFaults : Prop :=
  ∀ (s : State) (d : Buffers), s.Running d →
    (d.w.length % 8 = 0 → d.w.length + 16 ≤ s.cfg.wcap →
        let w := d.w ++ field (s.crc.extractLsb' 0 8) 8 ++ field (s.crc.extractLsb' 8 8) 8
        exec .acrc s = .next { s with data := some { d with w := w, bytes := b2b w }, stage := .brev }) ∧
      (s.cfg.wcap < d.w.length + 16 → exec .acrc s = .next (s.raiseFatal .overrun))

/-- R116: U4 BREV reverses every byte, in `W` and in `BY`. -/
def Obligations.BrevReversesBytes : Prop :=
  ∀ (s : State) (d : Buffers), s.Running d → d.w.length % 8 = 0 →
    exec .brev s = .next
      { s with data := some { d with w := brev d.w, bytes := d.bytes.map bitrev8 }, stage := .stuf }

/-- R119: U5 STUF replaces `W` by `STUF(W)`, where that fits, or raises `F_OVERRUN`; that `RUN` is left at the
scan's last count, 0 to 4, is the model's reading (DEDUCED, log entry 6). -/
def Obligations.StufStuffsOrFaults : Prop :=
  ∀ (s : State) (d : Buffers), s.Running d →
    ((stuf d.w).length ≤ s.cfg.wcap →
        ∃ r : BitVec 3, r.toNat = runAfter 0 d.w ∧ r.toNat ≤ 4 ∧
          exec .stuf s = .next { s with data := some { d with w := stuf d.w, run := some r }, stage := .wrap }) ∧
      (s.cfg.wcap < (stuf d.w).length → exec .stuf s = .next (s.raiseFatal .overrun))

/-- R131: U6 WRAP replaces `W` by `WRAP(W)`, where that fits, or raises `F_OVERRUN`. -/
def Obligations.WrapFramesOrFaults : Prop :=
  ∀ (s : State) (d : Buffers), s.Running d →
    (d.w.length + 46 ≤ s.cfg.wcap →
        exec .wrap s = .next { s with data := some { d with w := wrap s.cfg d.w }, stage := .nrzi }) ∧
      (s.cfg.wcap < d.w.length + 46 → exec .wrap s = .next (s.raiseFatal .overrun))

/-- R135: U7 NRZI writes the levels into `L`; that `LVL` is left at the last of them is the model's reading (DEDUCED, log entry 6). -/
def Obligations.NrziEncodesLine : Prop :=
  ∀ (s : State) (d : Buffers), s.Running d →
    ∃ lvl : Bool, (nrzi d.w).getLast? = some lvl ∧
      exec .nrzi s = .next { s with data := some { d with line := nrzi d.w, lvl := some lvl }, stage := .emit }

/-- R139: U8 EMIT appends `L` to the packet and pads it, or raises `F_PKTCAP` before any write. -/
def Obligations.EmitAppendsAndPadsOrFaults : Prop :=
  ∀ (s : State) (d : Buffers) (q : Bits), s.Running d → s.pktSt = PktSt.opened → s.pktBits = some q →
    (reqLen s.cfg (q.length + d.line.length) ≤ s.cfg.pktCap →
        exec .emit s = .next { s with pktBits := some (pad s.cfg (q ++ d.line)), stage := .idle }) ∧
      (s.cfg.pktCap < reqLen s.cfg (q.length + d.line.length) → exec .emit s = .next (s.raiseFatal .pktCap))

/-- The model's stops (log entry 4): outside their preconditions, which FIN guarantees (R100, R115, R139, R152), the
micro-operations stop, and change nothing. -/
def Obligations.MicroOperationsStopOutsideFin : Prop :=
  ∀ (s : State) (d : Buffers), s.Running d →
    (d.w.length % 8 ≠ 0 → exec .b2b s = .fault .raggedLength ∧ exec .brev s = .fault .raggedLength ∧
        (d.w.length + 16 ≤ s.cfg.wcap → exec .acrc s = .fault .raggedLength)) ∧
      (s.pktSt ≠ PktSt.opened → exec .emit s = .fault .packetNotOpen)

/-! ### FIN (spec/44_finalize.md) -/

/-- R187: FIN without an OPEN packet is a recoverable error; payload and packet are kept. -/
def Obligations.FinWithoutPacketFails : Prop :=
  ∀ s : State, s.fatal = false → s.pktSt ≠ PktSt.opened →
    exec .fin s = .next { s with lastErr := .noPkt, out := s.out ++ [⟨false, .noPkt⟩] }

/-- R151: FIN as one function. Where no check fails, it leaves the framed payload appended to the packet and the CRC of the payload
bytes, and releases the payload. -/
def Obligations.FinProducesFrame : Prop :=
  ∀ (s : State) (d : Buffers) (q : Bits), s.Running d → s.pktSt = PktSt.opened → s.pktBits = some q →
    finFault s.cfg q d.w = none →
      exec .fin s = .next
        { s with
          data := some { d with w := [], bytes := [], line := [], run := none, lvl := none }
          crc := crc16 s.cfg (b2b d.w)
          stage := .idle
          pktBits := some (pad s.cfg (q ++ nrzi (wrap s.cfg (stuf (brev (acrc s.cfg d.w))))))
          pktSt := .ready
          lastErr := .ok
          out := s.out ++ [⟨true, .ok⟩] }

/-- R151, R156: where a check fails, FIN raises the first fault in the order of R192, with `STAGE` at its step; the CRC register
holds the payload's CRC from U2 on; no frame is presented. -/
def Obligations.FinFaultsAtItsStage : Prop :=
  ∀ (s : State) (d : Buffers) (q : Bits) (c : FatalCause) (n : Stage),
    s.Running d → s.pktSt = PktSt.opened → s.pktBits = some q → finFault s.cfg q d.w = some (c, n) →
      exec .fin s = .next
        (State.raiseFatal
          { s with stage := n, crc := if c = .align then s.crc else crc16 s.cfg (b2b d.w) } c)

/-- R18, R150, R154: executing FIN atomically is the same as entering it and letting the sequencer step eight times. That a step is one
micro-operation, and that the completion belongs to the eighth, is the model's choice (DESIGN CHOICE, log entry 3). -/
def Obligations.FinIsTheSequencersRun : Prop :=
  ∀ (s : State) (d : Buffers), s.Running d → s.pktSt = PktSt.opened → d.w.length % 8 = 0 → s.input = [] →
    exec .fin s = Machine.run 8 { s with stage := .b2b }

/-- R171: two FIN commands on equal payloads and packets of equal contents, under one configuration, leave equal packet contents and
meet the same fault or none, whatever else the two states hold; from U2 on they leave equal CRC values. -/
def Obligations.FinDependsOnPayloadOnly : Prop :=
  ∀ (s s' t t' : State) (d d' : Buffers) (q : Bits),
    s.Running d → s'.Running d' → s.cfg = s'.cfg → d.w = d'.w → s.pktBits = some q → s'.pktBits = some q →
      s.pktSt = PktSt.opened → s'.pktSt = PktSt.opened → exec .fin s = .next t → exec .fin s' = .next t' →
        t.pktBits = t'.pktBits ∧ t.pktSt = t'.pktSt ∧ t.fatal = t'.fatal ∧
          (t.fatal = true → t.cause = t'.cause ∧ t.fstage = t'.fstage) ∧
          (t.fatal = false ∨ t.cause ≠ some .align → t.crc = t'.crc)

/-- R140: with the default configuration every payload of at most 368 bits, in whole bytes, is framed without a fault whatever
its contents. -/
def Obligations.DefaultCapacitySuffices : Prop :=
  ∀ p : Bits, p.length % 8 = 0 → p.length ≤ 368 → finFault Cfg.default [] p = none

/-! ### Whole-machine rules -/

/-- R198, R21: no instruction but PKN changes `PKT.chan`; it is lost only with an OPEN packet, at a fatal fault. -/
def Obligations.OnlyPknWritesChannel : Prop :=
  ∀ (i : Instr) (s t : State), exec i s = .next t → (∀ ch, i ≠ .pkn ch) →
    t.pktChan = s.pktChan ∨ (t.pktChan = none ∧ t.fatal = true ∧ s.pktSt = PktSt.opened)

/-- R49: no instruction but PKN changes what the radio driver sees of a READY packet. -/
def Obligations.ReadyFrameIsKept : Prop :=
  ∀ (i : Instr) (s t : State), exec i s = .next t → (∀ ch, i ≠ .pkn ch) → s.pktSt = PktSt.ready →
    t.radioView = s.radioView

/-- R15: no instruction but U2 and the FIN that runs it writes `CRC`. -/
def Obligations.OnlyCrcStepWritesCrc : Prop :=
  ∀ (i : Instr) (s t : State), exec i s = .next t → i ≠ .crc → i ≠ .fin → t.crc = s.crc

/-- R182: `fail(E_x)` writes `LASTERR`, responds `(0, E_x)`, and changes nothing else; of the commands that fail recoverably only TXC
changes more, setting `TOVF`, and APT, clearing `TLEN` and `TOVF`; `W`, `PLEN`, the packet and `STAGE` are never changed. -/
def Obligations.RecoverableErrorKeepsPayload : Prop :=
  (∀ (s : State) (e : Err), s.fail e = { s with lastErr := e, out := s.out ++ [⟨false, e⟩] }) ∧
    ∀ (i : Instr) (s t : State) (e : Err), s.fatal = false → exec i s = .next t → t.fatal = false →
      t.out = s.out ++ [⟨false, e⟩] →
        t.lastErr = e ∧
          ((∀ c, i ≠ .txc c) → (∀ n, i ≠ .apt n) → t = s.fail e) ∧
          (∀ c, i = .txc c → t = { s with tovf := true }.fail e) ∧
          (∀ n, i = .apt n →
            t = { s with data := s.data.map fun d : Buffers => { d with txt := [] }, tovf := false }.fail e) ∧
          t.data.map Buffers.w = s.data.map Buffers.w ∧ t.plen = s.plen ∧ t.pktSt = s.pktSt ∧ t.pktBits = s.pktBits ∧
          t.pktChan = s.pktChan ∧ t.crc = s.crc ∧ t.stage = s.stage

/-! ### Laws of the functions (spec/45_properties.md and the laws of 41 to 43) -/

/-- R115, R117: `BREV` moves bit `8k+7-j` to `8k+j`, which is bit `j` of byte `k`; it is an involution that preserves length and the
number of 1 bits and commutes with concatenation of whole bytes. -/
def Obligations.BrevLaws : Prop :=
  ∀ s t : Bits, s.length % 8 = 0 →
    (brev s).length = s.length ∧
      (∀ k j, k < s.length / 8 → j < 8 →
        (brev s)[8 * k + j]? = s[8 * k + 7 - j]? ∧
          ∀ b, (b2b s)[k]? = some b → (brev s)[8 * k + j]? = some (b.getLsbD j)) ∧
      b2b (brev s) = (b2b s).map bitrev8 ∧ brev (brev s) = s ∧ (brev s).count true = s.count true ∧
      brev (s ++ t) = brev s ++ brev t

/-- R120: a stuffed sequence contains no six consecutive 1s, hence never the flag. -/
def Obligations.StuffedNeverContainsFlag : Prop :=
  ∀ s : Bits, ¬ hasSixOnes (stuf s) ∧ ¬ flag <:+: stuf s

/-- R167: a stuffed sequence contains no six consecutive 1s, un-stuffing restores the sequence, and the only runs of six 1s in the wrapped
sequence are those of its two flags. R118: stuffing inserts at most one bit for every five. -/
def Obligations.StuffingIsCorrect : Prop :=
  ∀ (cfg : Cfg) (s : Bits),
    ¬ hasSixOnes (stuf s) ∧ unstuf (stuf s) = some s ∧
      (∀ j, ((wrap cfg (stuf s)).drop j).take 6 = List.replicate 6 true → j = 28 ∨ j = 36 + (stuf s).length) ∧
      s.length ≤ (stuf s).length ∧ (stuf s).length ≤ s.length + s.length / 5

/-- R130: the index map of `WRAP(s)`. -/
def Obligations.WrapIndexMap : Prop :=
  ∀ (cfg : Cfg) (s : Bits),
    (wrap cfg s).length = s.length + 46 ∧ (wrap cfg s).take 3 = cfg.rampUp.bits ∧
      (∀ i, i < 24 → (wrap cfg s)[3 + i]? = some (decide (i % 2 = 1))) ∧
      ((wrap cfg s).drop 27).take 8 = [false, true, true, true, true, true, true, false] ∧
      ((wrap cfg s).drop 35).take s.length = s ∧
      ((wrap cfg s).drop (35 + s.length)).take 8 = [false, true, true, true, true, true, true, false] ∧
      (wrap cfg s).drop (43 + s.length) = cfg.rampDown.bits

/-- R132: in `WRAP(STUF(x))` the flag stands at index 27 and at `35 + |STUF(x)|`, and nowhere between. -/
def Obligations.FlagsDelimitFrame : Prop :=
  ∀ (cfg : Cfg) (x : Bits) (j : Nat),
    let d := wrap cfg (stuf x)
    (d.drop 27).take 8 = flag ∧ (d.drop (35 + (stuf x).length)).take 8 = flag ∧
      (27 < j → j < 35 + (stuf x).length → (d.drop j).take 8 ≠ flag)

/-- R134, R136, R168: `NRZI` starts at level 1, each output is the one before it XOR the inverse of the input bit; decoding gives the
input back, the encoding of a prefix is a prefix, and the last level is 1 exactly for an even number of 0 bits. -/
def Obligations.NrziInvertible : Prop :=
  ∀ s u : Bits,
    (nrzi s).length = s.length + 1 ∧ (nrzi s)[0]? = some true ∧
      (∀ i a b, (nrzi s)[i]? = some a → s[i]? = some b → (nrzi s)[i + 1]? = some (a ^^ !b)) ∧
      nrziDec (nrzi s) = s ∧ nrzi s <+: nrzi (s ++ u) ∧
      (nrzi s).getLast? = some (decide (s.count false % 2 = 0))

/-- R166: un-framing a frame gives the payload back, for every configuration and every payload of whole bytes; and unpacking a field at
its place gives its value modulo `2^width` (a text character is the field of its `SIXBIT` code, 6 wide). That the second
clause also holds of other value sizes than R84's 32 bits and of widths outside 1 to 32 is the model's choice (DESIGN CHOICE, log
entry 14). -/
def Obligations.UnframeOfFrame : Prop :=
  (∀ (cfg : Cfg) (p : Bits), p.length % 8 = 0 → unframe cfg (frame cfg p) = some p) ∧
    ∀ (n : Nat) (value : BitVec n) (width : Nat) (before after : Bits),
      unfield (before ++ field value width ++ after) before.length width = value.toNat % 2 ^ width

/-- R107, R169: with an odd polynomial, two byte lists that differ in exactly one bit have different CRC values, and so have two
payloads of whole bytes that differ in exactly one bit; their trailers differ too. -/
def Obligations.CrcDetectsSingleBit : Prop :=
  ∀ cfg : Cfg, cfg.crcPoly.getLsbD 0 = true →
    (∀ (before after : List Byte) (b : Byte) (k : Nat), k < 8 →
        crc16 cfg (before ++ [b] ++ after) ≠ crc16 cfg (before ++ [b ^^^ BitVec.twoPow 8 k] ++ after)) ∧
      ∀ (before after : Bits) (b : Bool), (before ++ [b] ++ after).length % 8 = 0 →
        crc16 cfg (b2b (before ++ [b] ++ after)) ≠ crc16 cfg (b2b (before ++ [!b] ++ after)) ∧
          crcTrailer (crc16 cfg (b2b (before ++ [b] ++ after))) ≠ crcTrailer (crc16 cfg (b2b (before ++ [!b] ++ after)))

/-- R104: with the default parameters `CRC16` is the right-shifting form, on every input; its check value. -/
def Obligations.DefaultCrcIsRightShifting : Prop :=
  (∀ bytes : List Byte, crc16 Cfg.default bytes = fcs16 bytes) ∧
    crc16 Cfg.default [0x31, 0x32, 0x33, 0x34, 0x35, 0x36, 0x37, 0x38, 0x39] = 0x906E

/-- R108: the check values of the four named parameter sets, for "123456789" and for the byte 0x7E. -/
def Obligations.CrcVariantCheckValues : Prop :=
  let digits : List Byte := [0x31, 0x32, 0x33, 0x34, 0x35, 0x36, 0x37, 0x38, 0x39]
  let x25 : Cfg := {}
  let ccittFalse : Cfg := { crcRefin := false, crcRefout := false, crcXorout := 0x0000 }
  let xmodem : Cfg := { crcInit := 0x0000, crcRefin := false, crcRefout := false, crcXorout := 0x0000 }
  let kermit : Cfg := { crcInit := 0x0000, crcXorout := 0x0000 }
  crc16 x25 digits = 0x906E ∧ crc16 x25 [0x7E] = 0x6A81 ∧ crc16 ccittFalse digits = 0x29B1 ∧
    crc16 ccittFalse [0x7E] = 0x7EA9 ∧ crc16 xmodem digits = 0x31C3 ∧ crc16 xmodem [0x7E] = 0x9F59 ∧
    crc16 kermit digits = 0x2189 ∧ crc16 kermit [0x7E] = 0x9AF9

/-- R157, R158: the frames of the empty payload and of the payload 0x7E, with the defaults, read eight bits at a time. -/
def Obligations.WorkedFrames : Prop :=
  b2b (frame Cfg.default []) = [0xF3, 0x33, 0x33, 0x30, 0x15, 0x55, 0x50, 0x14] ∧
    (frame Cfg.default []).length = 64 ∧ crc16 Cfg.default [] = 0x0000 ∧
    b2b (frame Cfg.default (field (0x7E : BitVec 8) 8)) = [0xF3, 0x33, 0x33, 0x30, 0x10, 0x32, 0xA6, 0x77, 0xF5] ∧
    (frame Cfg.default (field (0x7E : BitVec 8) 8)).length = 72

/-- R170: with the default parameters the CRC over payload and trailer is the constant 0x0F47. -/
def Obligations.ReceiverCheckConstant : Prop :=
  ∀ p : Bits, p.length % 8 = 0 → crc16 Cfg.default (b2b (acrc Cfg.default p)) = 0x0F47

/-- R138: `REQLEN(n)` is the least multiple of `PAD_Q` not below `n`, and `PAD(s)` is `s` followed by pad bits up to it. -/
def Obligations.RequiredLengthIsLeastMultiple : Prop :=
  ∀ (cfg : Cfg) (n : Nat) (s : Bits), 1 ≤ cfg.padQ →
    n ≤ reqLen cfg n ∧ cfg.padQ ∣ reqLen cfg n ∧ (∀ m, cfg.padQ ∣ m → n ≤ m → reqLen cfg n ≤ m) ∧
      s <+: pad cfg s ∧ (pad cfg s).length = reqLen cfg s.length ∧
      ∀ b ∈ (pad cfg s).drop s.length, b = cfg.padBit

end
end

