-- ==== Sys2Proof/Laws/Encoding.lean ====
section
/-!
SUPPORT. The three fields of a command word are independent of one another (spec/30_encoding.md R60).
-/

namespace Sys2Proof

@[simp] theorem opField_commandWord (op a : BitVec 8) (d : BitVec 32) : opField (commandWord op a d) = op := by
  ext i hi
  simp only [opField, commandWord, BitVec.getElem_extractLsb', BitVec.getLsbD_append]
  rw [if_neg (by omega), if_neg (by omega), BitVec.getLsbD_eq_getElem (by omega)]
  congr 1
  omega

@[simp] theorem aField_commandWord (op a : BitVec 8) (d : BitVec 32) : aField (commandWord op a d) = a := by
  ext i hi
  simp only [aField, commandWord, BitVec.getElem_extractLsb', BitVec.getLsbD_append]
  rw [if_neg (by omega), if_pos (by omega), BitVec.getLsbD_eq_getElem (by omega)]
  congr 1
  omega

@[simp] theorem dField_commandWord (op a : BitVec 8) (d : BitVec 32) : dField (commandWord op a d) = d := by
  ext i hi
  simp only [dField, commandWord, BitVec.getElem_extractLsb', BitVec.getLsbD_append]
  rw [if_pos (by omega), BitVec.getLsbD_eq_getElem (by omega)]
  congr 1
  omega

/-- The bits of a command word, by field. -/
theorem commandWord_getLsbD (op a : BitVec 8) (d : BitVec 32) (i : Nat) :
    (commandWord op a d).getLsbD i =
      if i < 32 then d.getLsbD i else if i < 40 then a.getLsbD (i - 32) else op.getLsbD (i - 40) := by
  simp only [commandWord, BitVec.getLsbD_append]
  by_cases h : i < 32
  · simp only [h, ↓reduceIte]
  · by_cases h2 : i < 40
    · rw [if_neg h, if_pos (by omega), if_neg h, if_pos h2]
    · rw [if_neg h, if_neg (by omega), if_neg h, if_neg h2]
      congr 1

/-- A command word is made of its fields. -/
theorem commandWord_fields (w : BitVec 48) : commandWord (opField w) (aField w) (dField w) = w := by
  apply BitVec.eq_of_getLsbD_eq
  intro i hi
  rw [commandWord_getLsbD]
  by_cases h : i < 32
  · simp [h, dField]
  · by_cases h2 : i < 40
    · simp only [h, h2, ↓reduceIte, aField, BitVec.getLsbD_extractLsb']
      rw [show decide (i - 32 < 8) = true by simp; omega, Bool.true_and]
      congr 1; omega
    · simp only [h, h2, ↓reduceIte, opField, BitVec.getLsbD_extractLsb']
      rw [show decide (i - 40 < 8) = true by simp; omega, Bool.true_and]
      congr 1; omega

/-- Masking a command word masks its fields. -/
theorem commandWord_and (op a op' a' : BitVec 8) (d d' : BitVec 32) :
    commandWord op a d &&& commandWord op' a' d' = commandWord (op &&& op') (a &&& a') (d &&& d') := by
  apply BitVec.eq_of_getLsbD_eq
  intro i _
  simp only [BitVec.getLsbD_and, commandWord_getLsbD]
  split
  · rfl
  · split <;> rfl

/-- Equal command words have equal fields. -/
theorem commandWord_inj {op a op' a' : BitVec 8} {d d' : BitVec 32} :
    commandWord op a d = commandWord op' a' d' ↔ op = op' ∧ a = a' ∧ d = d' := by
  constructor
  · intro h
    exact ⟨by rw [← opField_commandWord op a d, h, opField_commandWord],
      by rw [← aField_commandWord op a d, h, aField_commandWord],
      by rw [← dField_commandWord op a d, h, dField_commandWord]⟩
  · rintro ⟨rfl, rfl, rfl⟩; rfl

/-- A row of the opcode table selects a word by its fields. -/
theorem selects_commandWord (r : OpRow) (op a : BitVec 8) (d : BitVec 32) :
    r.selects (commandWord op a d) = true ↔
      op &&& opField r.mask = opField r.pattern ∧ a &&& aField r.mask = aField r.pattern ∧
        d &&& dField r.mask = dField r.pattern := by
  rw [OpRow.selects, decide_eq_true_iff, ← commandWord_fields r.mask, ← commandWord_fields r.pattern, commandWord_and,
    commandWord_inj]
  simp

end Sys2Proof
end

