-- ==== Sys2Proof/Laws/State.lean ====
section
/-!
SUPPORT. One lemma per field of `State` per named update, true by `rfl`, so that no proof unfolds a record update.
-/

namespace Sys2Proof.Machine

/-! ### `State.respond` -/

@[simp] theorem State.respond_cfg (s : State) (ok : Bool) (err : Err) : (s.respond ok err).cfg = s.cfg := rfl

@[simp] theorem State.respond_data (s : State) (ok : Bool) (err : Err) : (s.respond ok err).data = s.data := rfl

@[simp] theorem State.respond_tovf (s : State) (ok : Bool) (err : Err) : (s.respond ok err).tovf = s.tovf := rfl

@[simp] theorem State.respond_crc (s : State) (ok : Bool) (err : Err) : (s.respond ok err).crc = s.crc := rfl

@[simp] theorem State.respond_stage (s : State) (ok : Bool) (err : Err) : (s.respond ok err).stage = s.stage := rfl

@[simp] theorem State.respond_pktBits (s : State) (ok : Bool) (err : Err) : (s.respond ok err).pktBits = s.pktBits := rfl

@[simp] theorem State.respond_pktChan (s : State) (ok : Bool) (err : Err) : (s.respond ok err).pktChan = s.pktChan := rfl

@[simp] theorem State.respond_pktSt (s : State) (ok : Bool) (err : Err) : (s.respond ok err).pktSt = s.pktSt := rfl

@[simp] theorem State.respond_fatal (s : State) (ok : Bool) (err : Err) : (s.respond ok err).fatal = s.fatal := rfl

@[simp] theorem State.respond_cause (s : State) (ok : Bool) (err : Err) : (s.respond ok err).cause = s.cause := rfl

@[simp] theorem State.respond_fstage (s : State) (ok : Bool) (err : Err) : (s.respond ok err).fstage = s.fstage := rfl

@[simp] theorem State.respond_lastErr (s : State) (ok : Bool) (err : Err) : (s.respond ok err).lastErr = s.lastErr := rfl

@[simp] theorem State.respond_input (s : State) (ok : Bool) (err : Err) : (s.respond ok err).input = s.input := rfl

@[simp] theorem State.respond_out (s : State) (ok : Bool) (err : Err) : (s.respond ok err).out = s.out ++ [⟨ok, err⟩] := rfl

@[simp] theorem State.respond_faultCount (s : State) (ok : Bool) (err : Err) : (s.respond ok err).faultCount = s.faultCount := rfl

/-! ### `State.succeed` -/

@[simp] theorem State.succeed_cfg (s : State) : (s.succeed).cfg = s.cfg := rfl

@[simp] theorem State.succeed_data (s : State) : (s.succeed).data = s.data := rfl

@[simp] theorem State.succeed_tovf (s : State) : (s.succeed).tovf = s.tovf := rfl

@[simp] theorem State.succeed_crc (s : State) : (s.succeed).crc = s.crc := rfl

@[simp] theorem State.succeed_stage (s : State) : (s.succeed).stage = s.stage := rfl

@[simp] theorem State.succeed_pktBits (s : State) : (s.succeed).pktBits = s.pktBits := rfl

@[simp] theorem State.succeed_pktChan (s : State) : (s.succeed).pktChan = s.pktChan := rfl

@[simp] theorem State.succeed_pktSt (s : State) : (s.succeed).pktSt = s.pktSt := rfl

@[simp] theorem State.succeed_fatal (s : State) : (s.succeed).fatal = s.fatal := rfl

@[simp] theorem State.succeed_cause (s : State) : (s.succeed).cause = s.cause := rfl

@[simp] theorem State.succeed_fstage (s : State) : (s.succeed).fstage = s.fstage := rfl

@[simp] theorem State.succeed_lastErr (s : State) : (s.succeed).lastErr = .ok := rfl

@[simp] theorem State.succeed_input (s : State) : (s.succeed).input = s.input := rfl

@[simp] theorem State.succeed_out (s : State) : (s.succeed).out = s.out ++ [⟨true, .ok⟩] := rfl

@[simp] theorem State.succeed_faultCount (s : State) : (s.succeed).faultCount = s.faultCount := rfl

/-! ### `State.fail` -/

@[simp] theorem State.fail_cfg (s : State) (e : Err) : (s.fail e).cfg = s.cfg := rfl

@[simp] theorem State.fail_data (s : State) (e : Err) : (s.fail e).data = s.data := rfl

@[simp] theorem State.fail_tovf (s : State) (e : Err) : (s.fail e).tovf = s.tovf := rfl

@[simp] theorem State.fail_crc (s : State) (e : Err) : (s.fail e).crc = s.crc := rfl

@[simp] theorem State.fail_stage (s : State) (e : Err) : (s.fail e).stage = s.stage := rfl

@[simp] theorem State.fail_pktBits (s : State) (e : Err) : (s.fail e).pktBits = s.pktBits := rfl

@[simp] theorem State.fail_pktChan (s : State) (e : Err) : (s.fail e).pktChan = s.pktChan := rfl

@[simp] theorem State.fail_pktSt (s : State) (e : Err) : (s.fail e).pktSt = s.pktSt := rfl

@[simp] theorem State.fail_fatal (s : State) (e : Err) : (s.fail e).fatal = s.fatal := rfl

@[simp] theorem State.fail_cause (s : State) (e : Err) : (s.fail e).cause = s.cause := rfl

@[simp] theorem State.fail_fstage (s : State) (e : Err) : (s.fail e).fstage = s.fstage := rfl

@[simp] theorem State.fail_lastErr (s : State) (e : Err) : (s.fail e).lastErr = e := rfl

@[simp] theorem State.fail_input (s : State) (e : Err) : (s.fail e).input = s.input := rfl

@[simp] theorem State.fail_out (s : State) (e : Err) : (s.fail e).out = s.out ++ [⟨false, e⟩] := rfl

@[simp] theorem State.fail_faultCount (s : State) (e : Err) : (s.fail e).faultCount = s.faultCount := rfl

/-! ### `State.refuseHalted` -/

@[simp] theorem State.refuseHalted_cfg (s : State) : (s.refuseHalted).cfg = s.cfg := rfl

@[simp] theorem State.refuseHalted_data (s : State) : (s.refuseHalted).data = s.data := rfl

@[simp] theorem State.refuseHalted_tovf (s : State) : (s.refuseHalted).tovf = s.tovf := rfl

@[simp] theorem State.refuseHalted_crc (s : State) : (s.refuseHalted).crc = s.crc := rfl

@[simp] theorem State.refuseHalted_stage (s : State) : (s.refuseHalted).stage = s.stage := rfl

@[simp] theorem State.refuseHalted_pktBits (s : State) : (s.refuseHalted).pktBits = s.pktBits := rfl

@[simp] theorem State.refuseHalted_pktChan (s : State) : (s.refuseHalted).pktChan = s.pktChan := rfl

@[simp] theorem State.refuseHalted_pktSt (s : State) : (s.refuseHalted).pktSt = s.pktSt := rfl

@[simp] theorem State.refuseHalted_fatal (s : State) : (s.refuseHalted).fatal = s.fatal := rfl

@[simp] theorem State.refuseHalted_cause (s : State) : (s.refuseHalted).cause = s.cause := rfl

@[simp] theorem State.refuseHalted_fstage (s : State) : (s.refuseHalted).fstage = s.fstage := rfl

@[simp] theorem State.refuseHalted_lastErr (s : State) : (s.refuseHalted).lastErr = s.lastErr := rfl

@[simp] theorem State.refuseHalted_input (s : State) : (s.refuseHalted).input = s.input := rfl

@[simp] theorem State.refuseHalted_out (s : State) : (s.refuseHalted).out = s.out ++ [⟨false, .halted⟩] := rfl

@[simp] theorem State.refuseHalted_faultCount (s : State) : (s.refuseHalted).faultCount = s.faultCount := rfl

/-! ### `State.raiseFatal` -/

@[simp] theorem State.raiseFatal_cfg (s : State) (c : FatalCause) : (s.raiseFatal c).cfg = s.cfg := rfl

@[simp] theorem State.raiseFatal_data (s : State) (c : FatalCause) : (s.raiseFatal c).data = none := rfl

@[simp] theorem State.raiseFatal_tovf (s : State) (c : FatalCause) : (s.raiseFatal c).tovf = (s.tovf && Config.lostTovf s.faultCount) := rfl

@[simp] theorem State.raiseFatal_crc (s : State) (c : FatalCause) : (s.raiseFatal c).crc = s.crc := rfl

@[simp] theorem State.raiseFatal_stage (s : State) (c : FatalCause) : (s.raiseFatal c).stage = s.stage := rfl

@[simp] theorem State.raiseFatal_pktBits (s : State) (c : FatalCause) : (s.raiseFatal c).pktBits = if s.pktSt = PktSt.opened then none else s.pktBits := rfl

@[simp] theorem State.raiseFatal_pktChan (s : State) (c : FatalCause) : (s.raiseFatal c).pktChan = if s.pktSt = PktSt.opened then none else s.pktChan := rfl

@[simp] theorem State.raiseFatal_pktSt (s : State) (c : FatalCause) : (s.raiseFatal c).pktSt = if s.pktSt = PktSt.opened then .noPacket else s.pktSt := rfl

@[simp] theorem State.raiseFatal_fatal (s : State) (c : FatalCause) : (s.raiseFatal c).fatal = true := rfl

@[simp] theorem State.raiseFatal_cause (s : State) (c : FatalCause) : (s.raiseFatal c).cause = some c := rfl

@[simp] theorem State.raiseFatal_fstage (s : State) (c : FatalCause) : (s.raiseFatal c).fstage = s.stage := rfl

@[simp] theorem State.raiseFatal_lastErr (s : State) (c : FatalCause) : (s.raiseFatal c).lastErr = .fatal c := rfl

@[simp] theorem State.raiseFatal_input (s : State) (c : FatalCause) : (s.raiseFatal c).input = s.input := rfl

@[simp] theorem State.raiseFatal_out (s : State) (c : FatalCause) : (s.raiseFatal c).out = s.out ++ [⟨false, .fatal c⟩] := rfl

@[simp] theorem State.raiseFatal_faultCount (s : State) (c : FatalCause) : (s.raiseFatal c).faultCount = s.faultCount + 1 := rfl

/-! ### `State.resetEvent` -/

@[simp] theorem State.resetEvent_cfg (s : State) : (s.resetEvent).cfg = s.cfg := rfl

@[simp] theorem State.resetEvent_data (s : State) : (s.resetEvent).data = some Buffers.empty := rfl

@[simp] theorem State.resetEvent_tovf (s : State) : (s.resetEvent).tovf = false := rfl

@[simp] theorem State.resetEvent_crc (s : State) : (s.resetEvent).crc = 0 := rfl

@[simp] theorem State.resetEvent_stage (s : State) : (s.resetEvent).stage = .idle := rfl

@[simp] theorem State.resetEvent_pktBits (s : State) : (s.resetEvent).pktBits = some [] := rfl

@[simp] theorem State.resetEvent_pktChan (s : State) : (s.resetEvent).pktChan = none := rfl

@[simp] theorem State.resetEvent_pktSt (s : State) : (s.resetEvent).pktSt = .noPacket := rfl

@[simp] theorem State.resetEvent_fatal (s : State) : (s.resetEvent).fatal = false := rfl

@[simp] theorem State.resetEvent_cause (s : State) : (s.resetEvent).cause = none := rfl

@[simp] theorem State.resetEvent_fstage (s : State) : (s.resetEvent).fstage = .idle := rfl

@[simp] theorem State.resetEvent_lastErr (s : State) : (s.resetEvent).lastErr = .ok := rfl

@[simp] theorem State.resetEvent_input (s : State) : (s.resetEvent).input = s.input := rfl

@[simp] theorem State.resetEvent_out (s : State) : (s.resetEvent).out = s.out := rfl

@[simp] theorem State.resetEvent_faultCount (s : State) : (s.resetEvent).faultCount = s.faultCount := rfl

/-! ### `State.openPacket` -/

@[simp] theorem State.openPacket_cfg (s : State) (ch : BitVec 8) : (s.openPacket ch).cfg = s.cfg := rfl

@[simp] theorem State.openPacket_data (s : State) (ch : BitVec 8) : (s.openPacket ch).data = s.data := rfl

@[simp] theorem State.openPacket_tovf (s : State) (ch : BitVec 8) : (s.openPacket ch).tovf = s.tovf := rfl

@[simp] theorem State.openPacket_crc (s : State) (ch : BitVec 8) : (s.openPacket ch).crc = s.crc := rfl

@[simp] theorem State.openPacket_stage (s : State) (ch : BitVec 8) : (s.openPacket ch).stage = s.stage := rfl

@[simp] theorem State.openPacket_pktBits (s : State) (ch : BitVec 8) : (s.openPacket ch).pktBits = some [] := rfl

@[simp] theorem State.openPacket_pktChan (s : State) (ch : BitVec 8) : (s.openPacket ch).pktChan = some ch := rfl

@[simp] theorem State.openPacket_pktSt (s : State) (ch : BitVec 8) : (s.openPacket ch).pktSt = .opened := rfl

@[simp] theorem State.openPacket_fatal (s : State) (ch : BitVec 8) : (s.openPacket ch).fatal = s.fatal := rfl

@[simp] theorem State.openPacket_cause (s : State) (ch : BitVec 8) : (s.openPacket ch).cause = s.cause := rfl

@[simp] theorem State.openPacket_fstage (s : State) (ch : BitVec 8) : (s.openPacket ch).fstage = s.fstage := rfl

@[simp] theorem State.openPacket_lastErr (s : State) (ch : BitVec 8) : (s.openPacket ch).lastErr = s.lastErr := rfl

@[simp] theorem State.openPacket_input (s : State) (ch : BitVec 8) : (s.openPacket ch).input = s.input := rfl

@[simp] theorem State.openPacket_out (s : State) (ch : BitVec 8) : (s.openPacket ch).out = s.out := rfl

@[simp] theorem State.openPacket_faultCount (s : State) (ch : BitVec 8) : (s.openPacket ch).faultCount = s.faultCount := rfl

/-! ### `State.enterFin` -/

@[simp] theorem State.enterFin_cfg (s : State) : (s.enterFin).cfg = s.cfg := rfl

@[simp] theorem State.enterFin_data (s : State) : (s.enterFin).data = s.data := rfl

@[simp] theorem State.enterFin_tovf (s : State) : (s.enterFin).tovf = s.tovf := rfl

@[simp] theorem State.enterFin_crc (s : State) : (s.enterFin).crc = s.crc := rfl

@[simp] theorem State.enterFin_stage (s : State) : (s.enterFin).stage = .b2b := rfl

@[simp] theorem State.enterFin_pktBits (s : State) : (s.enterFin).pktBits = s.pktBits := rfl

@[simp] theorem State.enterFin_pktChan (s : State) : (s.enterFin).pktChan = s.pktChan := rfl

@[simp] theorem State.enterFin_pktSt (s : State) : (s.enterFin).pktSt = s.pktSt := rfl

@[simp] theorem State.enterFin_fatal (s : State) : (s.enterFin).fatal = s.fatal := rfl

@[simp] theorem State.enterFin_cause (s : State) : (s.enterFin).cause = s.cause := rfl

@[simp] theorem State.enterFin_fstage (s : State) : (s.enterFin).fstage = s.fstage := rfl

@[simp] theorem State.enterFin_lastErr (s : State) : (s.enterFin).lastErr = s.lastErr := rfl

@[simp] theorem State.enterFin_input (s : State) : (s.enterFin).input = s.input := rfl

@[simp] theorem State.enterFin_out (s : State) : (s.enterFin).out = s.out := rfl

@[simp] theorem State.enterFin_faultCount (s : State) : (s.enterFin).faultCount = s.faultCount := rfl

/-! ### `State.complete` -/

@[simp] theorem State.complete_cfg (s : State) (d : Buffers) : (s.complete d).cfg = s.cfg := rfl

@[simp] theorem State.complete_data (s : State) (d : Buffers) : (s.complete d).data = some { d with w := [], bytes := [], line := [], run := none, lvl := none } := rfl

@[simp] theorem State.complete_tovf (s : State) (d : Buffers) : (s.complete d).tovf = s.tovf := rfl

@[simp] theorem State.complete_crc (s : State) (d : Buffers) : (s.complete d).crc = s.crc := rfl

@[simp] theorem State.complete_stage (s : State) (d : Buffers) : (s.complete d).stage = s.stage := rfl

@[simp] theorem State.complete_pktBits (s : State) (d : Buffers) : (s.complete d).pktBits = s.pktBits := rfl

@[simp] theorem State.complete_pktChan (s : State) (d : Buffers) : (s.complete d).pktChan = s.pktChan := rfl

@[simp] theorem State.complete_pktSt (s : State) (d : Buffers) : (s.complete d).pktSt = .ready := rfl

@[simp] theorem State.complete_fatal (s : State) (d : Buffers) : (s.complete d).fatal = s.fatal := rfl

@[simp] theorem State.complete_cause (s : State) (d : Buffers) : (s.complete d).cause = s.cause := rfl

@[simp] theorem State.complete_fstage (s : State) (d : Buffers) : (s.complete d).fstage = s.fstage := rfl

@[simp] theorem State.complete_lastErr (s : State) (d : Buffers) : (s.complete d).lastErr = .ok := rfl

@[simp] theorem State.complete_input (s : State) (d : Buffers) : (s.complete d).input = s.input := rfl

@[simp] theorem State.complete_out (s : State) (d : Buffers) : (s.complete d).out = s.out ++ [⟨true, .ok⟩] := rfl

@[simp] theorem State.complete_faultCount (s : State) (d : Buffers) : (s.complete d).faultCount = s.faultCount := rfl

/-! ### `State.takeInput` -/

@[simp] theorem State.takeInput_cfg (s : State) : (s.takeInput).cfg = s.cfg := rfl

@[simp] theorem State.takeInput_data (s : State) : (s.takeInput).data = s.data := rfl

@[simp] theorem State.takeInput_tovf (s : State) : (s.takeInput).tovf = s.tovf := rfl

@[simp] theorem State.takeInput_crc (s : State) : (s.takeInput).crc = s.crc := rfl

@[simp] theorem State.takeInput_stage (s : State) : (s.takeInput).stage = s.stage := rfl

@[simp] theorem State.takeInput_pktBits (s : State) : (s.takeInput).pktBits = s.pktBits := rfl

@[simp] theorem State.takeInput_pktChan (s : State) : (s.takeInput).pktChan = s.pktChan := rfl

@[simp] theorem State.takeInput_pktSt (s : State) : (s.takeInput).pktSt = s.pktSt := rfl

@[simp] theorem State.takeInput_fatal (s : State) : (s.takeInput).fatal = s.fatal := rfl

@[simp] theorem State.takeInput_cause (s : State) : (s.takeInput).cause = s.cause := rfl

@[simp] theorem State.takeInput_fstage (s : State) : (s.takeInput).fstage = s.fstage := rfl

@[simp] theorem State.takeInput_lastErr (s : State) : (s.takeInput).lastErr = s.lastErr := rfl

@[simp] theorem State.takeInput_input (s : State) : (s.takeInput).input = s.input.tail := rfl

@[simp] theorem State.takeInput_out (s : State) : (s.takeInput).out = s.out := rfl

@[simp] theorem State.takeInput_faultCount (s : State) : (s.takeInput).faultCount = s.faultCount := rfl

end Sys2Proof.Machine
end

