-- ==== Sys2Proof/Laws/Ops.lean ====
section
/-!
SUPPORT. For each shared operation, once, everything it can do.
-/

namespace Sys2Proof.Machine

/-! ### Guards and sequencing -/

@[simp] theorem andThen_next (s : State) (k : State → Result) : andThen (.next s) k = k s := rfl

@[simp] theorem andThen_fault (f : Fault) (k : State → Result) : andThen (.fault f) k = .fault f := rfl

@[simp] theorem andThen_refused (r : Refusal) (k : State → Result) : andThen (.refused r) k = .refused r := rfl

/-- If a sequence answers a next state, both its parts do. -/
theorem andThen_eq_next {r : Result} {k : State → Result} {t : State} (h : andThen r k = .next t) :
    ∃ u, r = .next u ∧ k u = .next t := by
  cases r with
  | next u => exact ⟨u, rfl, h⟩
  | fault f => cases h
  | refused r => cases h

@[simp] theorem withData_some {s : State} {d : Buffers} (h : s.data = some d) (k : Buffers → Result) :
    withData s k = k d := by
  simp only [withData, h]

@[simp] theorem withData_none {s : State} (h : s.data = none) (k : Buffers → Result) :
    withData s k = .fault .noValue := by
  simp only [withData, h]

/-- A meaning that answers a next state read buffers that hold values. -/
theorem withData_eq_next {s t : State} {k : Buffers → Result} (h : withData s k = .next t) :
    ∃ d, s.data = some d ∧ k d = .next t := by
  cases hd : s.data with
  | none => rw [withData_none hd] at h; cases h
  | some d => exact ⟨d, rfl, by rwa [withData_some hd] at h⟩

@[simp] theorem onCommand_running {s : State} (h : s.fatal = false) (k : Result) : onCommand s k = k := by
  simp only [onCommand, h, Bool.false_eq_true, ↓reduceIte]

@[simp] theorem onCommand_halted {s : State} (h : s.fatal = true) (k : Result) :
    onCommand s k = .next s.refuseHalted := by
  simp only [onCommand, h, ↓reduceIte]

/-- A command that answers a next state was refused by a halted block, or ran its own rule. -/
theorem onCommand_eq_next {s t : State} {k : Result} (h : onCommand s k = .next t) :
    (s.fatal = true ∧ t = s.refuseHalted) ∨ (s.fatal = false ∧ k = .next t) := by
  cases hf : s.fatal with
  | true => rw [onCommand_halted hf] at h; exact .inl ⟨rfl, by cases h; rfl⟩
  | false => rw [onCommand_running hf] at h; exact .inr ⟨rfl, h⟩

@[simp] theorem onMicro_running {s : State} (h : s.fatal = false) (k : Result) : onMicro s k = k := by
  simp only [onMicro, h, Bool.false_eq_true, ↓reduceIte]

@[simp] theorem onMicro_halted {s : State} (h : s.fatal = true) (k : Result) : onMicro s k = .next s := by
  simp only [onMicro, h, ↓reduceIte]

/-- A micro-operation that answers a next state was not executed by a halted block, or ran its own rule. -/
theorem onMicro_eq_next {s t : State} {k : Result} (h : onMicro s k = .next t) :
    (s.fatal = true ∧ t = s) ∨ (s.fatal = false ∧ k = .next t) := by
  cases hf : s.fatal with
  | true => rw [onMicro_halted hf] at h; exact .inl ⟨rfl, by cases h; rfl⟩
  | false => rw [onMicro_running hf] at h; exact .inr ⟨rfl, h⟩

@[simp] theorem onWholeBytes_pos {w : Bits} (h : w.length % 8 = 0) (k : Result) : onWholeBytes w k = k := by
  simp only [onWholeBytes, h, ↓reduceIte]

@[simp] theorem onWholeBytes_neg {w : Bits} (h : w.length % 8 ≠ 0) (k : Result) :
    onWholeBytes w k = .fault .raggedLength := by
  simp only [onWholeBytes, h, ↓reduceIte]

/-- A conversion that answers a next state was of whole bytes. -/
theorem onWholeBytes_eq_next {w : Bits} {k : Result} {t : State} (h : onWholeBytes w k = .next t) :
    w.length % 8 = 0 ∧ k = .next t := by
  by_cases hw : w.length % 8 = 0
  · exact ⟨hw, by rwa [onWholeBytes_pos hw] at h⟩
  · rw [onWholeBytes_neg hw] at h; cases h

/-! ### Cells -/

@[simp] theorem writeCells_at_length {α : Type} (cells v : List α) : writeCells cells cells.length v = cells ++ v := by
  simp [writeCells]

/-- Writing all of a space, or more, from index 0 replaces it. -/
theorem writeCells_zero {α : Type} {cells v : List α} (h : cells.length ≤ v.length) : writeCells cells 0 v = v := by
  simp [writeCells, List.drop_eq_nil_of_le h]

/-- A write at or below the length register leaves it at the larger of its value and the end of the write. -/
theorem writeCells_length {α : Type} {cells : List α} {i : Nat} (v : List α) (h : i ≤ cells.length) :
    (writeCells cells i v).length = max cells.length (i + v.length) := by
  simp only [writeCells, List.length_append, List.length_take, List.length_drop]
  omega

/-- Cells outside a write read as before it. -/
theorem writeCells_get_outside {α : Type} {cells : List α} {i j : Nat} (v : List α) (hi : i ≤ cells.length)
    (hj : j < i ∨ i + v.length ≤ j) : (writeCells cells i v)[j]? = cells[j]? := by
  have ht : (cells.take i).length = i := by simp [hi]
  unfold writeCells
  rcases hj with hj | hj
  · rw [List.append_assoc, List.getElem?_append_left (by omega), List.getElem?_take_of_lt hj]
  · rw [List.getElem?_append_right (by simp; omega), List.getElem?_drop]
    congr 1
    simp
    omega

/-- Cells inside a write read as what was written. -/
theorem writeCells_get_inside {α : Type} {cells : List α} {i j : Nat} (v : List α) (hi : i ≤ cells.length)
    (hj : j < v.length) : (writeCells cells i v)[i + j]? = v[j]? := by
  have ht : (cells.take i).length = i := by simp [hi]
  unfold writeCells
  rw [List.append_assoc, List.getElem?_append_right (by omega), ht, List.getElem?_append_left (by omega)]
  congr 1
  omega

/-! ### The append of the packing commands -/

/-- What APF and APT do with the bits they append: they fit, or the fault is raised before any write (R189). -/
theorem appendPayload_cases (s : State) (d : Buffers) (v : Bits) :
    (d.w.length + v.length ≤ s.cfg.wcap ∧
        appendPayload s d v = { s with data := some { d with w := d.w ++ v } }.succeed) ∨
      (s.cfg.wcap < d.w.length + v.length ∧ appendPayload s d v = s.raiseFatal .overrun) := by
  by_cases h : d.w.length + v.length > s.cfg.wcap
  · exact .inr ⟨h, by simp only [appendPayload, h, ↓reduceIte]⟩
  · exact .inl ⟨Nat.le_of_not_lt h, by simp only [appendPayload, h, ↓reduceIte, writeCells_at_length]⟩

end Sys2Proof.Machine
end

