-- ==== Sys2Proof/Laws/Lengths.lean ====
section
/-!
SUPPORT. The lengths of the pure functions, as the capacity checks use them (spec/45_properties.md R172).
-/

namespace Sys2Proof.Machine

@[simp] theorem field_length {n : Nat} (value : BitVec n) (width : Nat) : (field value width).length = width := by
  induction width with
  | zero => rfl
  | succ k ih => simp [field, ih]

@[simp] theorem textBits_length (chars : List Byte) : (textBits chars).length = 6 * chars.length := by
  induction chars with
  | nil => rfl
  | cons c cs ih => simp [textBits] at ih ⊢; omega

/-- A text field has `6*maxChars` bits. -/
theorem text_length {chars : List Byte} {maxChars : Nat} (h : chars.length ≤ maxChars) :
    (text chars maxChars).length = 6 * maxChars := by
  simp only [text, List.length_append, textBits_length, List.length_flatten, List.map_replicate, field_length,
    List.sum_replicate, smul_eq_mul]
  omega

@[simp] theorem crcTrailer_length (c : BitVec 16) : (crcTrailer c).length = 16 := by
  simp [crcTrailer]

/-- The bytes of a sequence are an eighth of its length, a ragged rest not converted. -/
@[simp] theorem b2b_length (s : Bits) : (b2b s).length = s.length / 8 := by
  induction s using b2b.induct with
  | case1 b7 b6 b5 b4 b3 b2 b1 b0 rest ih => simp only [b2b, List.length_cons, ih]; omega
  | case2 s h =>
    rw [b2b]
    · have : s.length < 8 := by
        match s with
        | [] | [_] | [_, _] | [_, _, _] | [_, _, _, _] | [_, _, _, _, _] | [_, _, _, _, _, _]
        | [_, _, _, _, _, _, _] => simp
        | a :: b :: c :: d :: e :: f :: g :: i :: r => exact absurd rfl (h a b c d e f g i r)
      simp only [List.length_nil]
      omega
    · exact h

/-- Reversing bytes keeps the length of a sequence of whole bytes. -/
theorem brev_length {s : Bits} (hs : s.length % 8 = 0) : (brev s).length = s.length := by
  induction s using brev.induct with
  | case1 b0 b1 b2 b3 b4 b5 b6 b7 rest ih =>
    simp only [brev, List.length_cons] at hs ⊢
    rw [ih (by omega)]
  | case2 s h =>
    match s with
    | [] => rfl
    | [_] | [_, _] | [_, _, _] | [_, _, _, _] | [_, _, _, _, _] | [_, _, _, _, _, _]
    | [_, _, _, _, _, _, _] => simp at hs
    | a :: b :: c :: d :: e :: f :: g :: i :: r => exact absurd rfl (h a b c d e f g i r)

/-- Stuffing never shortens. -/
theorem stufFrom_length_ge (run : Nat) (s : Bits) : s.length ≤ (stufFrom run s).length := by
  induction s generalizing run with
  | nil => simp [stufFrom]
  | cons b s ih =>
    cases b with
    | false => simpa [stufFrom] using ih 0
    | true =>
      by_cases h : run + 1 = 5
      · have := ih 0
        simp only [stufFrom, h, ↓reduceIte, List.length_cons]
        omega
      · simpa [stufFrom, h] using ih (run + 1)

/-- The run counter stays at 0 to 4 between bits (R16). -/
theorem runAfter_le {run : Nat} (h : run ≤ 4) (s : Bits) : runAfter run s ≤ 4 := by
  induction s generalizing run with
  | nil => exact h
  | cons b s ih =>
    cases b with
    | false => exact ih (by omega)
    | true =>
      by_cases h5 : run + 1 = 5
      · simpa [runAfter, h5] using ih (run := 0) (by omega)
      · simpa [runAfter, h5] using ih (run := run + 1) (by omega)

@[simp] theorem flag_length : flag.length = 8 := rfl

@[simp] theorem preamble_length (cfg : Cfg) : (preamble cfg).length = 35 := rfl

@[simp] theorem wrap_length (cfg : Cfg) (s : Bits) : (wrap cfg s).length = s.length + 46 := by
  simp only [wrap, List.length_append, preamble_length, flag_length, Ramp.bits, List.length_cons, List.length_nil]
  omega

@[simp] theorem nrziFrom_length (lvl : Bool) (s : Bits) : (nrziFrom lvl s).length = s.length := by
  induction s generalizing lvl with
  | nil => rfl
  | cons b s ih => simp [nrziFrom, ih]

@[simp] theorem nrzi_length (s : Bits) : (nrzi s).length = s.length + 1 := by
  simp [nrzi]

end Sys2Proof.Machine
end

