-- ==== Sys2Proof/Laws/Memory.lean ====
section
/-!
SUPPORT. `Memory.wf`: every buffer within its capacity. It holds after reset, and every operation on the buffers keeps it
(spec/20_memory.md R40, R47).
-/

namespace Sys2Proof.Machine

/-- The capacities, buffer by buffer. -/
theorem Memory.wf_iff (s : State) :
    Memory.wf s = true ↔
      (∀ d, s.data = some d → d.w.length ≤ s.cfg.wcap ∧ d.txt.length ≤ s.cfg.txtCap ∧
          d.bytes.length ≤ s.cfg.wcap / 8 ∧ d.line.length ≤ s.cfg.wcap + 1) ∧
        ∀ q, s.pktBits = some q → q.length ≤ s.cfg.pktCap := by
  cases hd : s.data <;> cases hq : s.pktBits <;>
    simp [Memory.wf, State.spaceWf, State.cells, Cfg.capacity, hd, hq, and_assoc]

theorem Memory.wf_reset : Memory.wf State.reset = true := by decide

/-- `Memory.wf` reads the configuration, the data registers and the packet's bits only. -/
theorem Memory.wf_congr {s t : State} (hc : t.cfg = s.cfg) (hd : t.data = s.data) (hq : t.pktBits = s.pktBits) :
    Memory.wf t = Memory.wf s := by
  simp only [Memory.wf, State.spaceWf, State.cells, hc, hd, hq]

theorem Memory.wf_respond {s : State} (ok : Bool) (e : Err) : Memory.wf (s.respond ok e) = Memory.wf s :=
  Memory.wf_congr rfl rfl rfl

theorem Memory.wf_succeed {s : State} : Memory.wf s.succeed = Memory.wf s := Memory.wf_congr rfl rfl rfl

theorem Memory.wf_fail {s : State} (e : Err) : Memory.wf (s.fail e) = Memory.wf s := Memory.wf_congr rfl rfl rfl

theorem Memory.wf_takeInput {s : State} : Memory.wf s.takeInput = Memory.wf s := Memory.wf_congr rfl rfl rfl

theorem Memory.wf_resetEvent (s : State) : Memory.wf s.resetEvent = true := by
  rw [Memory.wf_iff]
  constructor
  · rintro d hd
    cases hd
    simp [Buffers.empty]
  · rintro q hq
    cases hq
    simp

theorem Memory.wf_raiseFatal {s : State} (c : FatalCause) (h : Memory.wf s = true) : Memory.wf (s.raiseFatal c) = true := by
  rw [Memory.wf_iff] at h ⊢
  refine ⟨fun d hd => by simp at hd, fun q hq => ?_⟩
  rw [State.raiseFatal_pktBits] at hq
  split at hq
  · cases hq
  · exact h.2 q hq

theorem Memory.wf_openPacket {s : State} (ch : BitVec 8) (h : Memory.wf s = true) : Memory.wf (s.openPacket ch) = true := by
  rw [Memory.wf_iff] at h ⊢
  exact ⟨h.1, fun q hq => by cases hq; exact Nat.zero_le _⟩

theorem Memory.wf_complete {s : State} {d : Buffers} (hd : s.data = some d) (h : Memory.wf s = true) :
    Memory.wf (s.complete d) = true := by
  rw [Memory.wf_iff] at h ⊢
  refine ⟨fun d' hd' => ?_, h.2⟩
  cases hd'
  exact ⟨Nat.zero_le _, (h.1 d hd).2.1, Nat.zero_le _, Nat.zero_le _⟩

/-- A write of the data registers keeps the form if each buffer stays within its capacity. -/
theorem Memory.wf_setData {s : State} {d : Buffers} (h : Memory.wf s = true)
    (hw : d.w.length ≤ s.cfg.wcap) (ht : d.txt.length ≤ s.cfg.txtCap) (hb : d.bytes.length ≤ s.cfg.wcap / 8)
    (hl : d.line.length ≤ s.cfg.wcap + 1) : Memory.wf { s with data := some d } = true := by
  rw [Memory.wf_iff] at h ⊢
  refine ⟨fun d' hd' => ?_, h.2⟩
  cases hd'
  exact ⟨hw, ht, hb, hl⟩

/-- The append of APF and APT keeps the form: it writes only what fits. -/
theorem Memory.wf_appendPayload {s : State} {d : Buffers} (v : Bits) (hd : s.data = some d) (h : Memory.wf s = true) :
    Memory.wf (appendPayload s d v) = true := by
  have hb := ((Memory.wf_iff s).1 h).1 d hd
  rcases appendPayload_cases s d v with ⟨hfit, heq⟩ | ⟨_, heq⟩
  · rw [heq, Memory.wf_succeed]
    exact Memory.wf_setData h (by simpa using hfit) hb.2.1 hb.2.2.1 hb.2.2.2
  · rw [heq]
    exact Memory.wf_raiseFatal _ h

end Sys2Proof.Machine
end

