-- ==== Sys2Proof/Laws/PerInstr.lean ====
section
/-!
SUPPORT. Statements made of every instruction, one lemma per constructor of `Instr`. Family `RowMatch`: the encoding of a host command is
a word its row of the opcode table selects, and a micro-operation is a code of no row of that table (R61, R63, R66).
-/

namespace Sys2Proof.Laws.RowMatch

/-- The encoding of `i` lies in the row of `i`. -/
def Statement (i : Instr) : Prop :=
  (i.format = .h ∧ ∃ w r, encode i = .command w ∧ i.row = some r ∧ r.selects w = true) ∨
    (i.format = .u ∧ ∃ c, encode i = .micro c ∧ i.row = none)

theorem clr : Statement .clr := .inl ⟨rfl, _, _, rfl, rfl, by decide⟩

theorem pkn (ch : BitVec 8) : Statement (.pkn ch) :=
  .inl ⟨rfl, _, _, rfl, rfl, (selects_commandWord _ _ _ _).2 ⟨by decide, BitVec.and_zero, by decide⟩⟩

theorem apf (value : BitVec 32) (width : BitVec 8) : Statement (.apf value width) :=
  .inl ⟨rfl, _, _, rfl, rfl, (selects_commandWord _ _ _ _).2 ⟨by decide, BitVec.and_zero, BitVec.and_zero⟩⟩

theorem txc (c : BitVec 8) : Statement (.txc c) :=
  .inl ⟨rfl, _, _, rfl, rfl, (selects_commandWord _ _ _ _).2 ⟨by decide, by decide, by revert c; decide⟩⟩

theorem apt (maxChars : BitVec 8) : Statement (.apt maxChars) :=
  .inl ⟨rfl, _, _, rfl, rfl, (selects_commandWord _ _ _ _).2 ⟨by decide, BitVec.and_zero, by decide⟩⟩

theorem fin : Statement .fin := .inl ⟨rfl, _, _, rfl, rfl, by decide⟩

theorem b2b : Statement .b2b := .inr ⟨rfl, _, rfl, rfl⟩

theorem crc : Statement .crc := .inr ⟨rfl, _, rfl, rfl⟩

theorem acrc : Statement .acrc := .inr ⟨rfl, _, rfl, rfl⟩

theorem brev : Statement .brev := .inr ⟨rfl, _, rfl, rfl⟩

theorem stuf : Statement .stuf := .inr ⟨rfl, _, rfl, rfl⟩

theorem wrap : Statement .wrap := .inr ⟨rfl, _, rfl, rfl⟩

theorem nrzi : Statement .nrzi := .inr ⟨rfl, _, rfl, rfl⟩

theorem emit : Statement .emit := .inr ⟨rfl, _, rfl, rfl⟩

end Sys2Proof.Laws.RowMatch
end

