-- ==== Sys2Proof/Laws/Step.lean ====
section
/-!
SUPPORT. What a step can do, said once: which action a state takes, and what the step answers for each.
-/

namespace Sys2Proof.Machine

@[simp] theorem decodeMicro_idle : decode (.micro Stage.idle.code) = .error (.noMicroOp 0) := rfl

/-- The micro-operation a stage names decodes to an instruction, for every stage but idle. -/
theorem decodeMicro_eq_error_iff (n : Stage) : (∃ e, decode (.micro n.code) = .error e) ↔ n = .idle := by
  cases n <;> simp [decode, decodeMicro, Stage.code]

/-- A halted block looks at its port only. -/
theorem action_halted {s : State} (h : s.fatal = true) : s.action = portAction s := by
  simp only [State.action, h, ↓reduceIte]

/-- A running block that executes no FIN looks at its port only. -/
theorem action_idle {s : State} (h : s.stage = .idle) : s.action = portAction s := by
  simp only [State.action, h, decodeMicro_idle, ite_self]

/-- A running block in a FIN executes the micro-operation `STAGE` names, whatever the port presents. -/
theorem action_micro {s : State} {i : Instr} (hf : s.fatal = false) (h : decode (.micro s.stage.code) = .ok i) :
    s.action = .micro i := by
  simp only [State.action, hf, h, Bool.false_eq_true, ↓reduceIte]

/-- Everything a step can do. -/
theorem step_cases (s : State) :
    (s.input = [] ∧ step s = .next s) ∨
      (∃ rest, s.input = .reset :: rest ∧ step s = .next s.takeInput.resetEvent) ∨
      (∃ w rest, s.input = .command w :: rest ∧ s.fatal = true ∧ step s = .next s.takeInput.refuseHalted) ∨
      (∃ w rest e, s.input = .command w :: rest ∧ s.fatal = false ∧ s.stage = .idle ∧ decode (.command w) = .error e ∧
        step s = .next (s.takeInput.fail .illegal)) ∨
      (∃ w rest i, s.input = .command w :: rest ∧ s.fatal = false ∧ s.stage = .idle ∧ decode (.command w) = .ok i ∧
        step s = exec i s.takeInput) ∨
      ∃ i, s.fatal = false ∧ decode (.micro s.stage.code) = .ok i ∧ step s = afterMicro i (exec i s) := by
  by_cases hm : s.fatal = false ∧ ∃ i, decode (.micro s.stage.code) = .ok i
  · obtain ⟨hf, i, hi⟩ := hm
    exact .inr (.inr (.inr (.inr (.inr ⟨i, hf, hi, by simp only [step, action_micro hf hi]⟩))))
  · have hp : s.action = portAction s ∧ (s.fatal = false → s.stage = .idle) := by
      cases hf : s.fatal with
      | true => exact ⟨action_halted hf, nofun⟩
      | false =>
        have hs : s.stage = .idle := by
          refine (decodeMicro_eq_error_iff s.stage).1 ?_
          cases hd : decode (.micro s.stage.code) with
          | ok i => exact absurd ⟨hf, i, hd⟩ hm
          | error e => exact ⟨e, rfl⟩
        exact ⟨action_idle hs, fun _ => hs⟩
    obtain ⟨ha, hs⟩ := hp
    cases hin : s.input with
    | nil => exact .inl ⟨rfl, by simp only [step, ha, portAction, hin]⟩
    | cons x rest =>
      cases x with
      | reset => exact .inr (.inl ⟨rest, rfl, by simp only [step, ha, portAction, hin]⟩)
      | command w =>
        cases hf : s.fatal with
        | true =>
          exact .inr (.inr (.inl ⟨w, rest, rfl, rfl, by simp only [step, ha, portAction, hin, hf, ↓reduceIte]⟩))
        | false =>
          cases hd : decode (.command w) with
          | error e =>
            exact .inr (.inr (.inr (.inl ⟨w, rest, e, rfl, rfl, hs hf, hd, by
              simp only [step, ha, portAction, hin, hf, hd, Bool.false_eq_true, ↓reduceIte]⟩)))
          | ok i =>
            exact .inr (.inr (.inr (.inr (.inl ⟨w, rest, i, rfl, rfl, hs hf, hd, by
              simp only [step, ha, portAction, hin, hf, hd, Bool.false_eq_true, ↓reduceIte]⟩))))

/-! ### Runs -/

@[simp] theorem run_zero (s : State) : run 0 s = .next s := rfl

/-- A run goes on from the state its first step reaches. -/
theorem run_succ_of_next {s t : State} (n : Nat) (h : step s = .next t) : run (n + 1) s = run n t := by
  have h' : core.step s = .next t := h
  simp only [run, Host.Core.run, h']
  rfl

/-- A run stops at a step that faults. -/
theorem run_succ_of_fault {s : State} {f : Fault} (n : Nat) (h : step s = .fault f) : run (n + 1) s = .fault f := by
  have h' : core.step s = .fault f := h
  simp only [run, Host.Core.run, h']
  rfl

/-- A run stops at a step that is refused. -/
theorem run_succ_of_refused {s : State} {r : Refusal} (n : Nat) (h : step s = .refused r) :
    run (n + 1) s = .refused r := by
  have h' : core.step s = .refused r := h
  simp only [run, Host.Core.run, h']
  rfl

/-- With nothing presented, a block that executes no FIN stays as it is. -/
theorem run_quiet {s : State} (n : Nat) (h : s.fatal = true ∨ s.stage = .idle) (hi : s.input = []) :
    run n s = .next s := by
  have hs : step s = .next s := by
    have ha : s.action = portAction s := h.elim action_halted action_idle
    simp only [step, ha, portAction, hi]
  induction n with
  | zero => rfl
  | succ n ih => rw [run_succ_of_next n hs, ih]

end Sys2Proof.Machine
end

