-- ==== Sys2Proof/Tests/Slice0.lean ====
section
/-!
SUPPORT. Tests: the well-formedness smoke, decoding of words written out from spec/30_encoding.md, one step of each instruction
against spec/95_test_vectors.md and the examples of the rules, and a witness for each statement that has hypotheses.
-/

namespace Sys2Proof.Tests

open Sys2Proof.Machine

/-! ### Well-formedness: each check refuses an ill-formed term -/

/-- R61: the micro-operations are never issued by the host. -/
theorem test_wf_host_refuses_micro :
    [Instr.b2b, .crc, .acrc, .brev, .stuf, .wrap, .nrzi, .emit].all (fun i => !i.wellFormed .h) = true := by decide

/-- R60, R61: a host command is no format U code; it is a well-formed format H word, APF of an illegal width too (R65). -/
theorem test_wf_sequencer_refuses_commands :
    [Instr.clr, .pkn 1, .apf 1 33, .txc 65, .apt 20, .fin].all (fun i => !i.wellFormed .u && i.wellFormed .h) = true := by
  decide

theorem test_wf_cfg_default : Cfg.default.wf := by decide

/-- Table T2, `WCAP`: a multiple of 8, at least 64, at most 32768. -/
theorem test_wf_cfg_wcap :
    ¬ ({ wcap := 65 } : Cfg).wf ∧ ¬ ({ wcap := 56 } : Cfg).wf ∧ ¬ ({ wcap := 32776 } : Cfg).wf := by decide

/-- Table T2: `PKT_CAP` 48 to 32768, `TXT_CAP` 1 to 255, `CH_W` 8, `PAD_Q` at least 1. -/
theorem test_wf_cfg_rest :
    ¬ ({ pktCap := 47 } : Cfg).wf ∧ ¬ ({ pktCap := 32769 } : Cfg).wf ∧ ¬ ({ txtCap := 0 } : Cfg).wf ∧
      ¬ ({ txtCap := 256 } : Cfg).wf ∧ ¬ ({ chW := 7 } : Cfg).wf ∧ ¬ ({ padQ := 0 } : Cfg).wf := by decide

/-! ### Decoding (R63, R66, R70; spec/95_test_vectors.md 2.10) -/

theorem test_decode_clr : decodeTableWord 48 0b000000010000000000000000000000000000000000000000 = some .clr := by decide

theorem test_decode_pkn : decodeTableWord 48 0b000000100000000100000000000000000000000000000000 = some (.pkn 1) := by decide

/-- `APF -73350000, 32` (R70). -/
theorem test_decode_apf :
    decodeTableWord 48 0b000000110010000011111011101000001100010010010000 = some (.apf 0xFBA0C490 32) := by decide

theorem test_decode_txc : decodeTableWord 48 0b000001000000000000000000000000000000000001000001 = some (.txc 65) := by decide

theorem test_decode_apt : decodeTableWord 48 0b000001010001010000000000000000000000000000000000 = some (.apt 20) := by decide

theorem test_decode_fin : decodeTableWord 48 0b000001100000000000000000000000000000000000000000 = some .fin := by decide

theorem test_decode_micro :
    (List.range 16).map (decodeTableWord 8) =
      [none, some .b2b, some .crc, some .acrc, some .brev, some .stuf, some .wrap, some .nrzi, some .emit] ++
        List.replicate 7 none := by decide

/-- R70, from the assembly column to the words; an operand outside its range (R68) stands for no command. -/
theorem test_assemble :
    [AsmLine.clr, .pkn 1, .apf 0x7E 8, .apf 123456789 32, .apf (-73350000) 32, .apf 5 3, .txc 65, .apt 20, .fin, .apf 1 33].map
        assembleWords =
      [some [0x010000000000], some [0x020100000000], some [0x03080000007E], some [0x0320075BCD15], some [0x0320FBA0C490],
        some [0x030300000005], some [0x040000000041], some [0x051400000000], some [0x060000000000], some [0x032100000001]] ∧
      assembleWords (.pkn 256) = none ∧ assembleWords (.apf (-2147483649) 32) = none := by decide

/-- R69: `TEXT "AB", 4` is two TXC and an APT; `TEXT "", 4` is the APT alone. -/
theorem test_assemble_text :
    assembleWords (.text [65, 66] 4) = some [0x040000000041, 0x040000000042, 0x050400000000] ∧
      assembleWords (.text [] 4) = some [0x050400000000] := by decide

/-- The illegal words of 2.10, each refused by name. -/
theorem test_decode_illegal :
    decode (.command 0x000000000000) = .error (.reservedOpcode 0) ∧ decode (.command 0x070000000000) = .error (.reservedOpcode 7) ∧
      decode (.command 0xFFFFFFFFFFFF) = .error (.reservedOpcode 0xFF) ∧ decode (.command 0x010100000000) = .error (.nonzeroA 1) ∧
      decode (.command 0x020000000001) = .error (.nonzeroD 2) ∧ decode (.command 0x040000000100) = .error (.nonzeroD 4) ∧
      decode (.command 0x050000000001) = .error (.nonzeroD 5) ∧ decode (.command 0x060000000001) = .error (.nonzeroD 6) ∧
      decode (.command 0x060100000000) = .error (.nonzeroA 6) ∧ decode (.micro 9) = .error (.noMicroOp 9) := by
  refine ⟨?_, ?_, ?_, ?_, ?_, ?_, ?_, ?_, ?_, ?_⟩ <;> rfl

/-! ### States -/

/-- The bits of a byte, first bit most significant. -/
def bitsOf (b : Byte) : Bits := field b 8

/-- A running block with a payload, built after reset. -/
def payload (w : Bits) : State := { State.reset with data := some { Buffers.empty with w := w } }

/-- A running block with staged text. -/
def staged (txt : List Byte) : State := { State.reset with data := some { Buffers.empty with txt := txt } }

/-- `s` with an OPEN packet on channel 1. -/
def opened (s : State) : State := s.openPacket 1

/-- A block in FIN at step `n`, its packet OPEN. -/
def inFin (n : Stage) (d : Buffers) : State := { opened State.reset with stage := n, data := some d }

/-- The payload 0x7E of R158 with its CRC value, as U4 finds it. -/
def tail7E : Buffers :=
  { Buffers.empty with w := bitsOf 0x7E ++ bitsOf 0x81 ++ bitsOf 0x6A, bytes := [0x7E, 0x81, 0x6A] }

/-- A halted block. -/
def halted : State := State.reset.raiseFatal .width

/-- What a result's state reads as, if it is a next state. -/
def after {α : Type} (r : Result) (f : State → α) : Option α :=
  match r with
  | .next s => some (f s)
  | .fault _ => none
  | .refused _ => none

/-- A result that reads as something is a next state. -/
theorem next_of_after {r : Result} (h : (after r fun _ => ()).isSome = true) : ∃ t, r = .next t := by
  cases r with
  | next t => exact ⟨t, rfl⟩
  | fault f => cases h
  | refused r => cases h

/-- `W` as bytes, and `PLEN`. -/
def wOf (s : State) : Option (List Byte × Nat) := s.data.map fun d => (b2b d.w, d.w.length)

/-! ### One step of each instruction (spec/95_test_vectors.md) -/

/-- 2.3: CLR empties payload and staged text. -/
theorem test_clr :
    after (step { payload [true, false, true] with tovf := true, input := [.command 0x010000000000] }) (fun s => (s.plen, s.tovf, s.status, s.out)) =
      some (some 0, false, 0x0000, [⟨true, .ok⟩]) := by decide

/-- 2.3: PKN from READY discards the frame. -/
theorem test_pkn :
    after (exec (.pkn 3) { State.reset with pktSt := .ready, pktBits := some [true], pktChan := some 1 })
        (fun s => (s.pktSt, s.pktLen, s.pktChan, s.status)) = some (.opened, some 0, some 3, 0x0002) := by decide

/-- 2.1: `APF 0x1FF, 8`: bit 8 of the value is ignored. -/
theorem test_apf_low_bits :
    after (exec (.apf 0x1FF 8) (payload [])) wOf = some (some ([0xFF], 8)) := by decide

/-- 2.1: `APF 1, 9` with `PLEN = 32`, `WCAP = 40`, packet OPEN: `F_OVERRUN`, STATUS 0x9091. -/
theorem test_apf_overrun :
    after (exec (.apf 1 9) { opened (payload (List.replicate 32 false)) with cfg := { wcap := 40 } })
        (fun s => (s.status, s.out)) = some (0x9091, [⟨false, .fatal .overrun⟩]) := by decide

/-- 2.2: the 33rd TXC: STATUS 0x200A with an OPEN packet. -/
theorem test_txc_full :
    after (exec (.txc 65) (opened (staged (List.replicate 32 65)))) (fun s => (s.tlen, s.tovf, s.status)) =
      some (some 32, true, 0x200A) := by decide

/-- 2.2: `TXC 'H'`, `TXC 'I'`, `TXC ' '`, `TXC '1'`, `APT 4`: 001000 001001 100000 110001. -/
theorem test_apt :
    after (exec (.apt 4) (staged [72, 73, 32, 49])) wOf =
      some (some ([0b00100000, 0b10011000, 0b00110001], 24)) := by decide

/-- 2.2: `TXC 'A'`, `TXC 'A'`, `APT 1` with `WCAP = 16`: `E_TEXTLEN` is tested first. -/
theorem test_apt_too_long :
    after (exec (.apt 1) { staged [65, 65] with cfg := { wcap := 16 } }) (fun s => (s.tlen, s.fatal, s.lastErr)) =
      some (some 0, false, .textLen) := by decide

/-- 2.9, R158: FIN of the payload 0x7E. -/
theorem test_fin_7E :
    after (exec .fin (opened (payload (bitsOf 0x7E)))) (fun s => (s.status, s.crc, s.pktBits.map b2b, s.plen)) =
      some (0x0004, 0x6A81, some [0xF3, 0x33, 0x33, 0x30, 0x10, 0x32, 0xA6, 0x77, 0xF5], some 0) := by decide +kernel

/-- Section 4: payload FF FF FF FF with `WCAP = 48` faults at U5, STATUS 0x9591. -/
theorem test_fin_overrun_stuf :
    after (exec .fin { opened (payload (List.replicate 32 true)) with cfg := { wcap := 48 } }) (fun s => (s.status, s.data)) =
      some (0x9591, none) := by decide +kernel

/-- R101: `W = 00011000 00100000` gives `BY = [0x18, 0x20]`. -/
theorem test_b2b :
    after (step (inFin .b2b { Buffers.empty with w := bitsOf 0x18 ++ bitsOf 0x20 })) (fun s => (s.data.map Buffers.bytes, s.stage)) =
      some (some [0x18, 0x20], .crc) := by decide

/-- R103: `BY = [0x18, 0x20, 0x98, 0x31]` gives `0x2E0B`. -/
theorem test_crc :
    after (step (inFin .crc { Buffers.empty with bytes := [0x18, 0x20, 0x98, 0x31] })) (fun s => (s.crc, s.stage)) =
      some (0x2E0B, .acrc) := by decide +kernel

/-- R106: `W = 01111110`, `CRC = 0x6A81`: low byte first. -/
theorem test_acrc :
    after (step { inFin .acrc { Buffers.empty with w := bitsOf 0x7E } with crc := 0x6A81 }) (fun s => (wOf s, s.data.map Buffers.bytes)) =
      some (some ([0x7E, 0x81, 0x6A], 24), some [0x7E, 0x81, 0x6A]) := by decide

/-- R116: bytes 7E 81 6A become 7E 81 56. -/
theorem test_brev :
    after (step (inFin .brev tail7E)) (fun s => (wOf s, s.data.map Buffers.bytes)) =
      some (some ([0x7E, 0x81, 0x56], 24), some [0x7E, 0x81, 0x56]) := by decide

/-- R119: `11111011111` becomes `1111100111110`; `RUN` is 0 after the last insertion. -/
theorem test_stuf :
    after (step (inFin .stuf { Buffers.empty with w := [true, true, true, true, true, false, true, true, true, true, true] }))
        (fun s => s.data.map fun d => (d.w, d.run)) =
      some (some ([true, true, true, true, true, false, false, true, true, true, true, true, false], some 0)) := by decide

/-- 2.6: `WRAP(101)`. -/
theorem test_wrap :
    after (step (inFin .wrap { Buffers.empty with w := [true, false, true] })) (fun s => s.data.map Buffers.w) =
      some (some ((List.range 49).map (BitVec.getMsbD (0b1110101010101010101010101010111111010101111110000 : BitVec 49)))) := by
  decide

/-- 2.7: `00110` gives `101110`. -/
theorem test_nrzi :
    after (step (inFin .nrzi { Buffers.empty with w := [false, false, true, true, false] }))
        (fun s => s.data.map fun d => (d.line, d.lvl)) =
      some (some ([true, false, true, true, true, false], some false)) := by decide

/-- 2.8: 47 levels get one pad bit 0; with the packet padded the step goes on to completion (log entry 3). -/
theorem test_emit :
    after (step (inFin .emit { Buffers.empty with line := List.replicate 47 true }))
        (fun s => (s.pktBits.map fun q => (q.length, q.drop 46), s.status, s.out)) =
      some (some (48, [true, false]), 0x0004, [⟨true, .ok⟩]) := by decide +kernel

/-- 2.8: `REQLEN`. -/
theorem test_reqLen :
    [0, 1, 7, 8, 9, 47, 48, 63, 72, 95, 102].map (reqLen {}) = [0, 8, 8, 8, 16, 48, 48, 64, 72, 96, 104] ∧
      reqLen { padQ := 32 } 72 = 96 ∧ reqLen { padQ := 1 } 72 = 72 := by decide

/-- 2.10: an illegal word from reset: `(0, 1)`, STATUS 0x1000. -/
theorem test_illegal :
    after (step (State.reset.withFetchWord 48 0x070000000000)) (fun s => (s.status, s.out)) =
      some (0x1000, [⟨false, .illegal⟩]) := by decide

/-- 2.10: a legal word in the halted state: `(0, 4)`; `APF 1, 33` from reset left STATUS 0x8081. -/
theorem test_halted :
    after (step (halted.withFetchWord 48 0x010000000000)) (fun s => (s.status, s.out.getLast?)) =
      some (0x8081, some ⟨false, .halted⟩) := by decide

/-- Every row of the table, placed by `withFetchWord` after reset, is what the next step runs. -/
theorem test_fetch_rows :
    [(State.reset.withFetchWord 48 0x010000000000).action, (State.reset.withFetchWord 48 0x02FF00000000).action,
        (State.reset.withFetchWord 48 0x0303FFFFFFFF).action, (State.reset.withFetchWord 48 0x0400000000FF).action,
        (State.reset.withFetchWord 48 0x05FF00000000).action, (State.reset.withFetchWord 48 0x060000000000).action,
        (State.reset.withFetchWord 8 1).action, (State.reset.withFetchWord 8 2).action, (State.reset.withFetchWord 8 3).action,
        (State.reset.withFetchWord 8 4).action, (State.reset.withFetchWord 8 5).action, (State.reset.withFetchWord 8 6).action,
        (State.reset.withFetchWord 8 7).action, (State.reset.withFetchWord 8 8).action] =
      [.command .clr, .command (.pkn 0xFF), .command (.apf 0xFFFFFFFF 3), .command (.txc 0xFF), .command (.apt 0xFF),
        .command .fin, .micro .b2b, .micro .crc, .micro .acrc, .micro .brev, .micro .stuf, .micro .wrap, .micro .nrzi,
        .micro .emit] := by decide

/-! ### Witnesses: states and operands that meet the hypotheses of each statement -/

theorem witness_EncodeOfDecode : decode (.command 0x0320FFFFFFFF) = .ok (.apf 0xFFFFFFFF 32) ∧ decode (.micro 8) = .ok .emit := by
  constructor <;> rfl

theorem witness_LegalWordsSelectOneRow : decode (.command 0x04000000007A) = .ok (.txc 0x7A) := by rfl

theorem witness_StepRunsPresentedCommand :
    let s := { State.reset with input := [.command 0x060000000000] }
    s.fatal = false ∧ s.stage = .idle ∧ s.input = [.command 0x060000000000] ∧ decode (.command 0x060000000000) = .ok .fin := by
  refine ⟨rfl, rfl, rfl, rfl⟩

/-- A micro-operation other than EMIT; EMIT with and without a fault. -/
theorem witness_StepRunsMicroOperation :
    ((inFin .stuf tail7E).fatal = false ∧ decode (.micro (inFin .stuf tail7E).stage.code) = .ok .stuf) ∧
      ((inFin .emit tail7E).fatal = false ∧ decode (.micro (inFin .emit tail7E).stage.code) = .ok .emit) ∧
      (∃ t d, exec .emit (inFin .emit tail7E) = .next t ∧ t.fatal = false ∧ t.data = some d) ∧
      ∃ t, exec .emit { inFin .emit { tail7E with line := [true] } with cfg := { pktCap := 0 } } = .next t ∧ t.fatal = true := by
  refine ⟨⟨rfl, rfl⟩, ⟨rfl, rfl⟩, ⟨_, _, rfl, rfl, rfl⟩, ⟨_, rfl, rfl⟩⟩

theorem witness_IllegalWordFails :
    State.reset.fatal = false ∧ State.reset.stage = .idle ∧
      (State.reset.presentCommand 0).input = [.command 0] ∧ decode (.command 0) = .error (.reservedOpcode 0) := by
  refine ⟨rfl, rfl, rfl, rfl⟩

/-- For the statements about the halted state: with a word and with a reset event at the port, and with no reset event. -/
theorem witness_halted :
    halted.fatal = true ∧ (halted.presentCommand 7).input = [.command 7] ∧ Input.reset ∉ (halted.presentCommand 7).input ∧
      { halted with input := [.reset] }.input = [.reset] ∧
      (∃ t, step { halted with input := [.reset] } = .next t ∧ t.fatal = false) ∧
      ∃ t, step (halted.presentCommand 7) = .next t ∧ t.fatal = true := by
  refine ⟨rfl, rfl, by decide, rfl, ⟨_, rfl, rfl⟩, ⟨_, rfl, rfl⟩⟩

/-- A reset event at a halted and at a running block. -/
theorem witness_ResetReplacesState :
    { halted with input := [.reset] }.fatal = true ∧ { payload [true] with input := [.reset] }.stage = .idle ∧
      { payload [true] with input := [.reset] }.input = [.reset] := by
  refine ⟨rfl, rfl, rfl⟩

/-- States that meet the invariant: with a packet and a payload; in FIN; halted. For the statements with the invariant as a premise. -/
theorem witness_Inv : (opened (payload [true])).Inv ∧ (inFin .brev tail7E).Inv ∧ halted.Inv := by
  refine ⟨⟨?_, ?_, ?_, ?_, ?_, ?_, ?_⟩, ⟨?_, ?_, ?_, ?_, ?_, ?_, ?_⟩, ⟨?_, ?_, ?_, ?_, ?_, ?_, ?_⟩⟩ <;> decide

/-- The premises of `OneResponsePerCommand` beside the invariant, for a running and a halted block. -/
theorem witness_OneResponsePerCommand :
    (State.presentCommand (opened (payload [true])) 1).Inv ∧ (State.presentCommand (opened (payload [true])) 1).stage = .idle ∧
      (halted.presentCommand 1).Inv ∧ (halted.presentCommand 1).fatal = true := by
  refine ⟨⟨?_, ?_, ?_, ?_, ?_, ?_, ?_⟩, rfl, ⟨?_, ?_, ?_, ?_, ?_, ?_, ?_⟩, rfl⟩ <;> decide

theorem witness_StepKeepsInvariant : ∃ t, step (inFin .brev tail7E) = .next t := ⟨_, rfl⟩

/-- An OPEN packet, lost, and a READY one, kept. -/
theorem witness_FatalFaultEntry : (opened State.reset).pktSt = .opened ∧ ({ State.reset with pktSt := .ready } : State).pktSt ≠ .opened := by
  decide

/-- A running block with data registers, for the statements with `Running` as their one premise (CLR, CRC, NRZI), and its packet. -/
theorem witness_Running :
    (payload [true]).Running { Buffers.empty with w := [true] } ∧ (payload [true]).fatal = false ∧
      (inFin .nrzi tail7E).Running tail7E := by decide

theorem witness_FieldIsMostSignificantFirst : 1 ≤ 1 ∧ 1 ≤ 32 ∧ 1 ≤ 32 ∧ 32 ≤ 32 ∧ 31 < 32 := by decide

/-- APF: widths 1 and 32 that just fit, widths 0, 33 and 255, and one bit too many. -/
theorem witness_ApfAppendsFieldOrFaults :
    let s := payload (List.replicate 480 false)
    let d : Buffers := { Buffers.empty with w := List.replicate 480 false }
    s.Running d ∧ d.w.length + (32 : BitVec 8).toNat ≤ s.cfg.wcap ∧ 1 ≤ (1 : BitVec 8).toNat ∧ (0 : BitVec 8).toNat < 1 ∧
      32 < (33 : BitVec 8).toNat ∧ 32 < (255 : BitVec 8).toNat ∧
      (payload (List.replicate 481 false)).Running { Buffers.empty with w := List.replicate 481 false } ∧
      (payload (List.replicate 481 false)).cfg.wcap < (List.replicate 481 false).length + (32 : BitVec 8).toNat := by
  decide +kernel

/-- The cell just below, just above, and far from the written ones. -/
theorem witness_ApfWritesOnlyItsCells :
    (∃ t, exec (.apf 5 3) (payload [true]) = .next t ∧ t.fatal = false) ∧
      (Space.w = .w → 0 < [true].length ∨ [true].length + 3 ≤ 0) ∧ (Space.w = .w → 4 < [true].length ∨ [true].length + 3 ≤ 4) := by
  refine ⟨⟨_, rfl, rfl⟩, by decide, by decide⟩

theorem witness_TxcStagesCharacterOrFails :
    ((staged (List.replicate 31 65)).Running { Buffers.empty with txt := List.replicate 31 65 } ∧
        (List.replicate 31 (65 : Byte)).length ≠ (staged (List.replicate 31 65)).cfg.txtCap) ∧
      (staged (List.replicate 32 65)).Running { Buffers.empty with txt := List.replicate 32 65 } ∧
        (List.replicate 32 (65 : Byte)).length = (staged (List.replicate 32 65)).cfg.txtCap := by decide +kernel

/-- A string of exactly `maxChars`, the empty one, and the first and last characters. -/
theorem witness_TextFieldBits : [65, 66].length ≤ 2 ∧ ([] : List Byte).length ≤ 0 ∧ 0 < 2 ∧ 1 < 2 := by decide

/-- APT: exactly `maxChars` and exactly full; one character too many, or overflowed staging; and one bit too many. -/
theorem witness_AptAppendsTextOrFails :
    let s : State := { staged [65, 66] with cfg := { wcap := 12 } }
    let d : Buffers := { Buffers.empty with txt := [65, 66] }
    (s.Running d ∧ s.tovf = false ∧ d.txt.length ≤ (2 : BitVec 8).toNat ∧ d.w.length + 6 * (2 : BitVec 8).toNat ≤ s.cfg.wcap) ∧
      (1 : BitVec 8).toNat < d.txt.length ∧ { s with tovf := true }.tovf = true ∧
      { s with cfg := { wcap := 11 } }.cfg.wcap < d.w.length + 6 * (2 : BitVec 8).toNat := by decide

/-- `TEXT "A", 1` at a block after reset; the string and the staging buffer at, and one past, their limits; no room. -/
theorem witness_TextPseudoInstruction :
    let s : State := { State.reset with input := [.command 0x040000000041, .command 0x050100000000, .reset] }
    let words : List (BitVec 48) := [0x040000000041, 0x050100000000]
    (s.Running Buffers.empty ∧ s.stage = .idle ∧ Buffers.empty.txt = [] ∧ s.tovf = false ∧
        assembleWords (.text [65] 1) = some words ∧ s.input = words.map Input.command ++ [.reset]) ∧
      ¬ (1 < [65].length ∨ s.cfg.txtCap < [65].length) ∧ ¬ s.cfg.wcap < Buffers.empty.w.length + 6 * 1 ∧ 0 < [65].length ∧
      s.cfg.txtCap < (List.replicate 33 65).length ∧ s.cfg.wcap < (List.replicate 507 true).length + 6 * 1 := by decide +kernel

/-- Whole bytes for U1 and U4: none, and three. -/
theorem witness_wholeBytes :
    (inFin .b2b Buffers.empty).Running Buffers.empty ∧ Buffers.empty.w.length % 8 = 0 ∧ (inFin .brev tail7E).Running tail7E ∧
      tail7E.w.length % 8 = 0 := by decide

theorem witness_B2bBytes : tail7E.w.length % 8 = 0 ∧ 0 < tail7E.w.length / 8 ∧ 2 < tail7E.w.length / 8 ∧ 0 < 8 ∧ 7 < 8 := by decide

/-- U3: the trailer fits exactly, and does not fit by one byte. -/
theorem witness_AcrcAppendsTrailerOrFaults :
    let s : State := { inFin .acrc tail7E with cfg := { wcap := 40 } }
    s.Running tail7E ∧ tail7E.w.length % 8 = 0 ∧ tail7E.w.length + 16 ≤ s.cfg.wcap ∧
      { s with cfg := { wcap := 39 } }.cfg.wcap < tail7E.w.length + 16 := by decide

/-- U5: the stuffed sequence fits exactly, and does not fit by one bit. -/
theorem witness_StufStuffsOrFaults :
    let d : Buffers := { Buffers.empty with w := List.replicate 10 true }
    let s : State := { inFin .stuf d with cfg := { wcap := 12 } }
    s.Running d ∧ (stuf d.w).length ≤ s.cfg.wcap ∧ { s with cfg := { wcap := 11 } }.cfg.wcap < (stuf d.w).length := by decide

/-- U6: the wrapped sequence fits exactly, and does not fit by one bit. -/
theorem witness_WrapFramesOrFaults :
    let s : State := { inFin .wrap tail7E with cfg := { wcap := 70 } }
    s.Running tail7E ∧ tail7E.w.length + 46 ≤ s.cfg.wcap ∧ { s with cfg := { wcap := 69 } }.cfg.wcap < tail7E.w.length + 46 := by
  decide +kernel

/-- U8: the padded frame fills the packet exactly, and exceeds it. -/
theorem witness_EmitAppendsAndPadsOrFaults :
    let d : Buffers := { Buffers.empty with line := List.replicate 505 true }
    let s := inFin .emit d
    s.Running d ∧ s.pktSt = .opened ∧ s.pktBits = some [] ∧ reqLen s.cfg (([] : Bits).length + d.line.length) ≤ s.cfg.pktCap ∧
      s.cfg.pktCap < reqLen s.cfg (([] : Bits).length + (List.replicate 513 true).length) := by decide +kernel

/-- Seven bits are no whole byte; no packet is OPEN. -/
theorem witness_MicroOperationsStopOutsideFin :
    (payload (List.replicate 7 true)).Running { Buffers.empty with w := List.replicate 7 true } ∧
      (List.replicate 7 true).length % 8 ≠ 0 ∧ (List.replicate 7 true).length + 16 ≤ State.reset.cfg.wcap ∧
      (payload (List.replicate 7 true)).pktSt ≠ .opened := by decide

theorem witness_FinWithoutPacketFails :
    State.reset.fatal = false ∧ State.reset.pktSt ≠ .opened ∧ ({ State.reset with pktSt := .ready } : State).pktSt ≠ .opened := by decide

/-- FIN succeeds; a packet that already holds bits is admitted too. -/
theorem witness_FinProducesFrame :
    (opened (payload (bitsOf 0x7E))).Running { Buffers.empty with w := bitsOf 0x7E } ∧
      (opened (payload (bitsOf 0x7E))).pktSt = .opened ∧ (opened (payload (bitsOf 0x7E))).pktBits = some [] ∧
      finFault (opened (payload (bitsOf 0x7E))).cfg [] (bitsOf 0x7E) = none ∧
      finFault (opened (payload (bitsOf 0x7E))).cfg [true] (bitsOf 0x7E) = none := by decide +kernel

/-- The capacity vectors of section 4, and a ragged payload: each fault at its step. -/
theorem witness_FinFaultsAtItsStage :
    finFault {} [] [true] = some (.align, .b2b) ∧ finFault { wcap := 16 } [] (bitsOf 0) = some (.overrun, .acrc) ∧
      finFault { wcap := 48 } [] (List.replicate 32 true) = some (.overrun, .stuf) ∧
      finFault { wcap := 64 } [] (bitsOf 0) = some (.overrun, .wrap) ∧
      finFault { pktCap := 64 } [] (bitsOf 0) = some (.pktCap, .emit) := by decide +kernel

theorem witness_FinIsTheSequencersRun :
    (opened (payload (bitsOf 0x7E))).Running { Buffers.empty with w := bitsOf 0x7E } ∧
      (opened (payload (bitsOf 0x7E))).pktSt = .opened ∧ (bitsOf 0x7E).length % 8 = 0 ∧
      (opened (payload (bitsOf 0x7E))).input = [] := by decide

/-- Two states with the same payload that differ elsewhere (the CRC value and the channel). -/
theorem witness_FinDependsOnPayloadOnly :
    (∃ t, exec .fin (opened (payload (bitsOf 0x7E))) = .next t) ∧
      ∃ t, exec .fin { (payload (bitsOf 0x7E)).openPacket 2 with crc := 0x1234 } = .next t :=
  ⟨next_of_after (by decide +kernel), next_of_after (by decide +kernel)⟩

theorem witness_DefaultCapacitySuffices : (List.replicate 368 true).length % 8 = 0 ∧ (List.replicate 368 true).length ≤ 368 := by decide +kernel

/-- A step of an instruction that is not PKN, with an OPEN packet lost and with a READY one. -/
theorem witness_OnlyPknWritesChannel :
    (∃ t, exec (.apf 0 0) (opened State.reset) = .next t) ∧ (∀ ch, Instr.apf 0 0 ≠ .pkn ch) ∧
      ({ State.reset with pktSt := .ready } : State).pktSt = .ready ∧
      ∃ t, exec (.apf 0 0) { State.reset with pktSt := .ready } = .next t := by
  refine ⟨⟨_, rfl⟩, nofun, rfl, ⟨_, rfl⟩⟩

theorem witness_OnlyCrcStepWritesCrc : (∃ t, exec .clr State.reset = .next t) ∧ Instr.clr ≠ .crc ∧ Instr.clr ≠ .fin := by
  refine ⟨⟨_, rfl⟩, nofun, nofun⟩

/-- FIN without a packet fails recoverably; so do a TXC that overflows the staging buffer, and an APT one character too short. -/
theorem witness_RecoverableErrorKeepsPayload :
    State.reset.fatal = false ∧
      (∃ t, exec .fin State.reset = .next t ∧ t.fatal = false ∧ t.out = State.reset.out ++ [⟨false, .noPkt⟩]) ∧
      (∃ t, exec (.txc 65) { staged [] with cfg := { txtCap := 0 } } = .next t ∧ t.fatal = false ∧
        t.out = ({ staged [] with cfg := { txtCap := 0 } } : State).out ++ [⟨false, .textLen⟩]) ∧
      ∃ t, exec (.apt 1) (staged [65, 66]) = .next t ∧ t.fatal = false ∧
        t.out = (staged [65, 66]).out ++ [⟨false, .textLen⟩] := by
  refine ⟨rfl, ⟨_, rfl, rfl, rfl⟩, ⟨_, rfl, rfl, rfl⟩, ⟨_, rfl, rfl, rfl⟩⟩

theorem witness_FlagsDelimitFrame : 27 < 28 ∧ 28 < 35 + (stuf [true]).length := by decide

theorem witness_BrevLaws : (bitsOf 0x12).length % 8 = 0 ∧ 0 < (bitsOf 0x12).length / 8 ∧ 7 < 8 := by decide

theorem witness_NrziInvertible : (nrzi [false])[0]? = some true ∧ [false][0]? = some false := by decide

theorem witness_StuffingIsCorrect :
    ((wrap {} (stuf [])).drop 28).take 6 = List.replicate 6 true ∧
      ((wrap {} (stuf [])).drop 36).take 6 = List.replicate 6 true := by decide

theorem witness_WrapIndexMap : 0 < 24 ∧ 23 < 24 := by decide

theorem witness_payloadOfWholeBytes : ([] : Bits).length % 8 = 0 ∧ (bitsOf 0x7E).length % 8 = 0 := by decide

theorem witness_CrcDetectsSingleBit :
    Cfg.default.crcPoly.getLsbD 0 = true ∧ 0 < 8 ∧ 7 < 8 ∧ (([] : Bits) ++ [true] ++ List.replicate 7 false).length % 8 = 0 := by
  decide

theorem witness_RequiredLengthIsLeastMultiple : 1 ≤ ({ padQ := 1 } : Cfg).padQ ∧ Cfg.default.padQ ∣ 16 ∧ 9 ≤ 16 := by decide

end Sys2Proof.Tests
end

