-- ==== Sys2Proof/Proofs/FinSequencer.lean ====
section
/-!
SUPPORT. FIN executed atomically against the sequencer's steps (spec/44_finalize.md R150, R154). The relation that is kept, `State.AtStage`,
says that nothing is presented and that the block is halted or at a given stage; from such a state one step is the micro-operation of
that stage, in both cases, and it leads to the stage that follows.
-/

namespace Sys2Proof.Machine

/-! ### Sequencing -/

theorem andThen_assoc (r : Result) (k l : State → Result) :
    andThen (andThen r k) l = andThen r fun s => andThen (k s) l := by
  cases r <;> rfl

theorem andThen_next_right (r : Result) : andThen r .next = r := by
  cases r <;> rfl

/-- Two continuations that agree on the state a result reaches make equal sequences. -/
theorem andThen_congr {r : Result} {k l : State → Result} (h : ∀ t, r = .next t → k t = l t) :
    andThen r k = andThen r l := by
  cases r with
  | next t => exact h t rfl
  | fault f => rfl
  | refused r => rfl

/-- A run of `n + 1` steps is a step and then a run of `n`, whatever the step answers. -/
theorem run_succ (n : Nat) (s : State) : run (n + 1) s = andThen (step s) (run n) := by
  cases h : step s with
  | next t => exact run_succ_of_next n h
  | fault f => exact run_succ_of_fault n h
  | refused r => exact run_succ_of_refused n h

theorem run_one (s : State) : run 1 s = step s :=
  (run_succ 0 s).trans (andThen_next_right (step s))

/-! ### Micro-operations in FIN's order -/

/-- The stage after a micro-operation that raised no fault (R18, R150): the order U1 to U8, then idle. -/
def Stage.following : Stage → Stage
  | .idle => .idle
  | .b2b => .crc
  | .crc => .acrc
  | .acrc => .brev
  | .brev => .stuf
  | .stuf => .wrap
  | .wrap => .nrzi
  | .nrzi => .emit
  | .emit => .idle

/-- What a micro-operation's rule reaches from `s`: the port is as before, and the block halted or went on to the stage `n`. -/
def State.MovesTo (s : State) (n : Stage) (t : State) : Prop :=
  t.input = s.input ∧ (t.fatal = true ∨ t.stage = n)

theorem State.movesTo_raiseFatal (s : State) (n : Stage) (c : FatalCause) : s.MovesTo n (s.raiseFatal c) :=
  ⟨rfl, .inl rfl⟩

/-- A micro-operation moves to `n` if its own rule does: a halted block does not execute it, and buffers without values stop it. -/
theorem movesTo_of_onMicro {s t : State} {n : Stage} {k : Buffers → Result}
    (h : onMicro s (withData s k) = .next t) (hk : ∀ d, k d = .next t → s.MovesTo n t) : s.MovesTo n t := by
  obtain ⟨hf, rfl⟩ | ⟨_, h⟩ := onMicro_eq_next h
  · exact ⟨rfl, .inl hf⟩
  · obtain ⟨d, _, h⟩ := withData_eq_next h
    exact hk d h

/-- A rule that raises a fatal fault where a check fails moves to `n` if what it does otherwise does. -/
theorem movesTo_of_check {s t : State} {n : Stage} {p : Prop} [Decidable p] {c : FatalCause} {k : Result}
    (h : (if p then .next (s.raiseFatal c) else k) = .next t) (hk : k = .next t → s.MovesTo n t) : s.MovesTo n t := by
  split at h
  · cases h; exact s.movesTo_raiseFatal n c
  · exact hk h

theorem execB2b_movesTo {s t : State} (h : execB2b s = .next t) : s.MovesTo .crc t :=
  movesTo_of_onMicro h fun _ h => by
    obtain ⟨_, h⟩ := onWholeBytes_eq_next h
    cases h; exact ⟨rfl, .inr rfl⟩

theorem execCrc_movesTo {s t : State} (h : execCrc s = .next t) : s.MovesTo .acrc t :=
  movesTo_of_onMicro h fun _ h => by cases h; exact ⟨rfl, .inr rfl⟩

theorem execAcrc_movesTo {s t : State} (h : execAcrc s = .next t) : s.MovesTo .brev t :=
  movesTo_of_onMicro h fun _ h => movesTo_of_check h fun h => by
    obtain ⟨_, h⟩ := onWholeBytes_eq_next h
    cases h; exact ⟨rfl, .inr rfl⟩

theorem execBrev_movesTo {s t : State} (h : execBrev s = .next t) : s.MovesTo .stuf t :=
  movesTo_of_onMicro h fun _ h => by
    obtain ⟨_, h⟩ := onWholeBytes_eq_next h
    cases h; exact ⟨rfl, .inr rfl⟩

theorem execStuf_movesTo {s t : State} (h : execStuf s = .next t) : s.MovesTo .wrap t :=
  movesTo_of_onMicro h fun _ h => movesTo_of_check h fun h => by cases h; exact ⟨rfl, .inr rfl⟩

theorem execWrap_movesTo {s t : State} (h : execWrap s = .next t) : s.MovesTo .nrzi t :=
  movesTo_of_onMicro h fun _ h => movesTo_of_check h fun h => by cases h; exact ⟨rfl, .inr rfl⟩

theorem execNrzi_movesTo {s t : State} (h : execNrzi s = .next t) : s.MovesTo .emit t :=
  movesTo_of_onMicro h fun _ h => by cases h; exact ⟨rfl, .inr rfl⟩

theorem execEmit_movesTo {s t : State} (h : execEmit s = .next t) : s.MovesTo .idle t :=
  movesTo_of_onMicro h fun _ h => by
    split at h
    · cases h
    · split at h
      · cases h
      · exact movesTo_of_check h fun h => by cases h; exact ⟨rfl, .inr rfl⟩

/-- The micro-operation of a stage leads to the stage that follows, or halts the block (R18, R150). -/
theorem exec_movesTo_following {s t : State} {n : Stage} {i : Instr} (hi : decode (.micro n.code) = .ok i)
    (h : exec i s = .next t) : s.MovesTo n.following t := by
  cases n with
  | idle => cases hi
  | b2b => cases hi; exact execB2b_movesTo h
  | crc => cases hi; exact execCrc_movesTo h
  | acrc => cases hi; exact execAcrc_movesTo h
  | brev => cases hi; exact execBrev_movesTo h
  | stuf => cases hi; exact execStuf_movesTo h
  | wrap => cases hi; exact execWrap_movesTo h
  | nrzi => cases hi; exact execNrzi_movesTo h
  | emit => cases hi; exact execEmit_movesTo h

/-- A halted block executes no micro-operation (R156). -/
theorem exec_micro_halted {s : State} {n : Stage} {i : Instr} (hi : decode (.micro n.code) = .ok i)
    (hf : s.fatal = true) : exec i s = .next s := by
  cases n with
  | idle => cases hi
  | b2b | crc | acrc | brev | stuf | wrap | nrzi | emit => cases hi; exact onMicro_halted hf _

/-- What follows a micro-operation does nothing at a halted block (R156). -/
theorem afterMicro_halted {s : State} (i : Instr) (hf : s.fatal = true) : afterMicro i (.next s) = .next s := by
  unfold afterMicro
  split
  · exact onMicro_halted hf _
  · rfl

/-! ### One step of the sequencer -/

/-- Nothing is presented, and the block is halted or at the stage `n`. -/
def State.AtStage (s : State) (n : Stage) : Prop :=
  s.input = [] ∧ (s.fatal = true ∨ s.stage = n)

theorem State.MovesTo.atStage {s t : State} {n m : Stage} (h : s.MovesTo m t) (hs : s.AtStage n) : t.AtStage m := by
  obtain ⟨hkept, hst⟩ := h
  obtain ⟨hin, _⟩ := hs
  exact ⟨hkept.trans hin, hst⟩

/-- The step at a stage is the stage's micro-operation and what follows it; at a halted block both change nothing. -/
theorem step_atStage {s : State} {n : Stage} {i : Instr} (hi : decode (.micro n.code) = .ok i) (hs : s.AtStage n) :
    step s = afterMicro i (exec i s) := by
  obtain ⟨hin, hst⟩ := hs
  cases hf : s.fatal with
  | true =>
    calc step s = run 1 s := (run_one s).symm
      _ = .next s := run_quiet 1 (.inl hf) hin
      _ = afterMicro i (exec i s) := by rw [exec_micro_halted hi hf, afterMicro_halted i hf]
  | false =>
    have hn : s.stage = n := hst.resolve_left (by simp [hf])
    have ha : s.action = .micro i := action_micro hf (hn ▸ hi)
    simp only [step, ha]

/-- A run from the stage of U8: EMIT, then the completion. -/
theorem run_emit (s : State) (hs : s.AtStage .emit) : run 1 s = andThen (exec .emit s) finish :=
  calc run 1 s = step s := run_one s
    _ = afterMicro .emit (exec .emit s) := step_atStage rfl hs
    _ = andThen (exec .emit s) finish := if_pos rfl

/-- A run from any other stage: its micro-operation, then what the run from the following stage amounts to. -/
theorem run_micro {n : Stage} {i : Instr} {m : Nat} {k : State → Result} (hi : decode (.micro n.code) = .ok i)
    (he : i ≠ .emit) (hk : ∀ t : State, t.AtStage n.following → run m t = k t) (s : State) (hs : s.AtStage n) :
    run (m + 1) s = andThen (exec i s) k := by
  have hstep : step s = exec i s := (step_atStage hi hs).trans (if_neg he)
  rw [run_succ, hstep]
  exact andThen_congr fun t ht => hk t ((exec_movesTo_following hi ht).atStage hs)

/-! ### FIN -/

/-- FIN of whole bytes with an OPEN packet: entry, U1 to U8, and the completion (R150). -/
theorem exec_fin_eq_stages {s : State} {d : Buffers} (hr : s.Running d) (hp : s.pktSt = .opened)
    (hw : d.w.length % 8 = 0) : exec .fin s = andThen (runStages s.enterFin) finish := by
  obtain ⟨hf, hd⟩ := hr
  change execFin s = _
  simp only [execFin, onCommand_running hf, withData_some hd, hp, hw, ne_eq, not_true_eq_false, ↓reduceIte]

/-- U1 to U8 and the completion are eight steps of the sequencer from U1. -/
theorem run_eight_eq_stages {s : State} (hs : s.AtStage .b2b) : run 8 s = andThen (runStages s) finish := by
  simp only [runStages, andThen_assoc]
  have nrzi := run_micro (n := .nrzi) rfl nofun run_emit
  have wrap := run_micro (n := .wrap) rfl nofun nrzi
  have stuf := run_micro (n := .stuf) rfl nofun wrap
  have brev := run_micro (n := .brev) rfl nofun stuf
  have acrc := run_micro (n := .acrc) rfl nofun brev
  have crc := run_micro (n := .crc) rfl nofun acrc
  exact run_micro (n := .b2b) rfl nofun crc s hs

/-- Settles O41: both sides are U1 to U8 and the completion, from the state FIN's entry leaves. -/
theorem finIsTheSequencersRun : Obligations.FinIsTheSequencersRun := by
  intro s d hr hp hw hin
  have entered : s.enterFin.AtStage .b2b := ⟨hin, .inr rfl⟩
  exact (exec_fin_eq_stages hr hp hw).trans (run_eight_eq_stages entered).symm

end Sys2Proof.Machine
end

