-- ==== Sys2Proof/Proofs/StateInvariant.lean ====
section
/-!
SUPPORT. The registers of the block over its steps (spec/10_state.md). A step from the invariant `State.Inv` is followed in two layers: the
writes that keep the invariant, each proved once, and for every command and micro-operation what it does from a state of the invariant:
it completes, keeps the invariant, and answers once (`State.Handles`) or leaves FIN going on at the stage that follows
(`State.GoesOn`). What no instruction writes from any state is `State.KeepsOrFaults`.
-/

namespace Sys2Proof.Machine

/-! ### `STATUS` and the reset state -/

/-- Settles O18: each field is what is left of `STATUS` once the fields below it are dropped. -/
theorem statusWordFields : Obligations.StatusWordFields := by
  intro s
  simp only [State.status]
  refine ⟨?_, ?_, ?_, ?_, ?_, ?_⟩
  · rw [BitVec.getLsbD_append]
    simp
  · rw [BitVec.extractLsb'_append_eq_of_le (by decide)]
    rw [BitVec.extractLsb'_append_eq_of_add_le (by decide), BitVec.extractLsb'_eq_self]
  · iterate 3 rw [BitVec.getLsbD_append]
    simp
  · iterate 3 rw [BitVec.extractLsb'_append_eq_of_le (by decide)]
    rw [BitVec.extractLsb'_append_eq_of_add_le (by decide), BitVec.extractLsb'_eq_self]
  · iterate 4 rw [BitVec.extractLsb'_append_eq_of_le (by decide)]
    rw [BitVec.extractLsb'_append_eq_of_add_le (by decide), BitVec.extractLsb'_eq_self]
  · iterate 5 rw [BitVec.extractLsb'_append_eq_of_le (by decide)]
    exact BitVec.extractLsb'_eq_self

/-- Settles O12. -/
theorem resetRegisterValues : Obligations.ResetRegisterValues := by
  refine ⟨rfl, rfl, rfl, rfl, rfl, rfl, rfl, rfl, rfl, rfl, rfl, ?_, fun sp => ?_⟩
  · rintro _ ⟨⟩
    exact ⟨rfl, rfl⟩
  · cases sp <;> rfl

/-- Settles O13. -/
theorem resetMeetsInvariant : Obligations.ResetMeetsInvariant where
  cfg := by decide
  memory := Memory.wf_reset
  running := by decide
  halted := nofun
  packet := by decide
  idle := by decide
  sequencer := by decide

/-! ### The halted block -/

/-- The registers a halted block keeps until reset read in `t` as in `s`. -/
def State.HaltedAs (t s : State) : Prop :=
  t.fatal = true ∧ t.cause = s.cause ∧ t.fstage = s.fstage ∧ t.status = s.status ∧ t.radioView = s.radioView ∧
    t.crc = s.crc

theorem State.HaltedAs.refl {s : State} (hf : s.fatal = true) : s.HaltedAs s :=
  ⟨hf, rfl, rfl, rfl, rfl, rfl⟩

/-- What a halted block does without a reset event: nothing, or the refusal of one command (R184). -/
theorem step_halted_cases {s : State} (hf : s.fatal = true) (hr : Input.reset ∉ s.input) :
    step s = .next s ∨
      Input.reset ∉ s.takeInput.input ∧ step s = .next s.takeInput.refuseHalted := by
  rcases step_cases s with ⟨_, h⟩ | ⟨rest, hin, _⟩ | ⟨_, _, _, _, h⟩ | ⟨_, _, _, _, hrun, _⟩ | ⟨_, _, _, _, hrun, _⟩ |
    ⟨_, hrun, _⟩
  · exact .inl h
  · exact absurd (hin ▸ List.mem_cons_self) hr
  · exact .inr ⟨fun hm => hr (List.mem_of_mem_tail hm), h⟩
  all_goals exact absurd (hf.symm.trans hrun) nofun

/-- Over a run without a reset event a halted block keeps its registers (R184). -/
theorem run_haltedAs (n : Nat) {s : State} (hf : s.fatal = true) (hr : Input.reset ∉ s.input) :
    ∃ t, run n s = .next t ∧ t.HaltedAs s := by
  induction n generalizing s with
  | zero => exact ⟨s, rfl, .refl hf⟩
  | succ n ih =>
    obtain hs | ⟨hr', hs⟩ := step_halted_cases hf hr
    · rw [run_succ_of_next n hs]
      exact ih hf hr
    · rw [run_succ_of_next n hs]
      exact ih (s := s.takeInput.refuseHalted) hf hr'

/-- Settles O10, by induction on the number of steps. -/
theorem haltedUntilReset : Obligations.HaltedUntilReset :=
  fun n _ hf hr => run_haltedAs n hf hr

/-! ### One micro-operation -/

theorem finish_halted {s : State} (hf : s.fatal = true) : finish s = .next s :=
  onMicro_halted hf _

theorem finish_running {s : State} {d : Buffers} (hr : s.Running d) : finish s = .next (s.complete d) := by
  rw [finish, onMicro_running hr.1, withData_some hr.2]

/-- Settles O6. -/
theorem stepRunsMicroOperation : Obligations.StepRunsMicroOperation := by
  intro s i hf hi
  have hstep : step s = afterMicro i (exec i s) := by simp only [step, action_micro hf hi]
  refine ⟨fun hne => hstep.trans (if_neg hne), ?_⟩
  rintro t d rfl ht
  have hfinish : step s = finish t := by rw [hstep, ht]; exact if_pos rfl
  exact ⟨fun hhalted => hfinish.trans (finish_halted hhalted),
    fun hrun hd => hfinish.trans (finish_running ⟨hrun, hd⟩)⟩

/-! ### The invariant, and the writes that keep it -/

/-- Every buffer of the data registers is within its capacity (R12, R13, R14, R19). -/
structure Buffers.Fits (d : Buffers) (cfg : Cfg) : Prop where
  w : d.w.length ≤ cfg.wcap
  txt : d.txt.length ≤ cfg.txtCap
  bytes : d.bytes.length ≤ cfg.wcap / 8
  line : d.line.length ≤ cfg.wcap + 1

theorem State.Inv.fits {s : State} {d : Buffers} (h : s.Inv) (hd : s.data = some d) : d.Fits s.cfg := by
  obtain ⟨hw, htxt, hbytes, hline⟩ := ((Memory.wf_iff s).1 h.memory).1 d hd
  exact ⟨hw, htxt, hbytes, hline⟩

/-- A running block of the invariant has data registers. -/
theorem State.Inv.exists_running {s : State} (h : s.Inv) (hf : s.fatal = false) : ∃ d, s.Running d := by
  obtain ⟨hd, _⟩ := h.running hf
  obtain ⟨d, hd⟩ := Option.isSome_iff_exists.1 hd
  exact ⟨d, hf, hd⟩

/-- `TOVF` says that `TXT` is full (R13). -/
theorem State.Inv.txt_full {s : State} {d : Buffers} (h : s.Inv) (hr : s.Running d) (ht : s.tovf = true) :
    d.txt.length = s.cfg.txtCap := by
  obtain ⟨_, _, _, _, htovf⟩ := h.running hr.1
  exact htovf ht d hr.2

/-- The invariant reads the registers of S1 only, not the port. -/
theorem State.Inv.takeInput {s : State} (h : s.Inv) : s.takeInput.Inv :=
  ⟨h.cfg, Memory.wf_takeInput.trans h.memory, h.running, h.halted, h.packet, h.idle, h.sequencer⟩

theorem State.Inv.refuseHalted {s : State} (h : s.Inv) : s.refuseHalted.Inv :=
  ⟨h.cfg, (Memory.wf_respond _ _).trans h.memory, h.running, h.halted, h.packet, h.idle, h.sequencer⟩

theorem State.Inv.resetEvent {s : State} (h : s.Inv) : s.resetEvent.Inv where
  cfg := h.cfg
  memory := Memory.wf_resetEvent s
  running _ := ⟨rfl, rfl, rfl, rfl, nofun⟩
  halted := nofun
  packet := ⟨⟨fun _ => rfl, fun _ => rfl⟩, fun _ => rfl, nofun, nofun⟩
  idle := by rintro _ _ ⟨⟩; exact ⟨rfl, rfl, rfl, rfl⟩
  sequencer _ hn := absurd rfl hn

/-- A running block may answer with success or a recoverable error (R25). -/
theorem State.Inv.fail {s : State} (h : s.Inv) (hf : s.fatal = false) {e : Err} (he : e.runningCode = true) :
    (s.fail e).Inv where
  cfg := h.cfg
  memory := (Memory.wf_fail e).trans h.memory
  running _ := by
    obtain ⟨hd, hcause, hfstage, _, htovf⟩ := h.running hf
    exact ⟨hd, hcause, hfstage, he, htovf⟩
  halted hh := absurd (hf.symm.trans hh) nofun
  packet := h.packet
  idle := h.idle
  sequencer := h.sequencer

theorem State.Inv.succeed {s : State} (h : s.Inv) (hf : s.fatal = false) : s.succeed.Inv where
  __ := h.fail hf (e := .ok) rfl

/-- Taking a fatal fault at a step that can raise it meets the invariant; the data registers need not have (R180, R183). -/
theorem State.inv_raiseFatal {s : State} {c : FatalCause} (hcfg : s.cfg.wf) (hmem : Memory.wf s = true)
    (hpkt : s.packetOk) (hc : s.stage ∈ c.raisedAt) : (s.raiseFatal c).Inv where
  cfg := hcfg
  memory := Memory.wf_raiseFatal c hmem
  running := nofun
  halted _ := by
    refine ⟨rfl, ⟨c, rfl, rfl, hc⟩, rfl, ?_⟩
    by_cases ho : s.pktSt = .opened <;> simp [ho]
  packet := by
    obtain ⟨hchan, hbits, _, hready⟩ := hpkt
    by_cases ho : s.pktSt = .opened
    · simp [State.packetOk, ho]
    · simpa [State.packetOk, ho] using ⟨hchan, hbits, hready⟩
  idle := nofun
  sequencer := nofun

theorem State.Inv.raiseFatal {s : State} {c : FatalCause} (h : s.Inv) (hc : s.stage ∈ c.raisedAt) :
    (s.raiseFatal c).Inv :=
  State.inv_raiseFatal h.cfg h.memory h.packet hc

/-- Between commands a command may write `W`, `TXT` and `TOVF`, within the capacities. -/
theorem State.Inv.writePayload {s : State} {d : Buffers} (h : s.Inv) (hr : s.Running d) (hi : s.stage = .idle)
    {w : Bits} {txt : List Byte} {b : Bool} (hw : w.length ≤ s.cfg.wcap) (htxt : txt.length ≤ s.cfg.txtCap)
    (hb : b = true → txt.length = s.cfg.txtCap) :
    ({ s with data := some { d with w := w, txt := txt }, tovf := b } : State).Inv := by
  obtain ⟨hf, hd⟩ := hr
  have fits := h.fits hd
  obtain ⟨_, hcause, hfstage, herr, _⟩ := h.running hf
  exact {
    cfg := h.cfg
    memory := Memory.wf_setData (s := { s with tovf := b }) h.memory hw htxt fits.bytes fits.line
    running := fun _ => ⟨rfl, hcause, hfstage, herr, by rintro ht _ ⟨⟩; exact hb ht⟩
    halted := fun hh => absurd (hf.symm.trans hh) nofun
    packet := h.packet
    idle := by rintro _ _ ⟨⟩; exact h.idle hi d hd
    sequencer := fun _ hn => absurd hi hn }

/-- Inside FIN a micro-operation may write the data registers but `TXT`, and `CRC`, and goes on to a stage `n`: the buffers stay
within the capacities, `W` a whole number of bytes up to U4, `RUN` 0 to 4. -/
theorem State.Inv.advance {s : State} {d d' : Buffers} {c : BitVec 16} {n : Stage} (h : s.Inv) (hr : s.Running d)
    (hs : s.stage ≠ .idle) (hn : n ≠ .idle) (hfit : d'.Fits s.cfg) (htxt : d'.txt = d.txt)
    (hw : n ∈ [Stage.b2b, .crc, .acrc, .brev] → d'.w.length % 8 = 0) (hrun : ∀ r ∈ d'.run, r.toNat ≤ 4) :
    ({ s with data := some d', crc := c, stage := n } : State).Inv := by
  obtain ⟨_, hcause, hfstage, herr, _⟩ := h.running hr.1
  obtain ⟨hopen, _⟩ := h.sequencer hr.1 hs
  exact {
    cfg := h.cfg
    memory := Memory.wf_setData (s := { s with crc := c, stage := n }) h.memory hfit.w hfit.txt hfit.bytes hfit.line
    running := fun _ => ⟨rfl, hcause, hfstage, herr, by rintro ht _ ⟨⟩; exact (congrArg _ htxt).trans (h.txt_full hr ht)⟩
    halted := fun hh => absurd (hr.1.symm.trans hh) nofun
    packet := h.packet
    idle := fun hi => absurd hi hn
    sequencer := by
      refine fun _ _ => ⟨hopen, ?_⟩
      rintro _ ⟨⟩
      exact ⟨hw, hrun⟩ }

/-! ### Responses -/

/-- `t` is `s` after one command: one response, which `LASTERR` mirrors, and nothing more taken from the port (R25, R80). -/
def State.Answers (s t : State) : Prop :=
  ∃ r : Response, t.input = s.input ∧ t.out = s.out ++ [r] ∧ (r.ok = true ↔ r.err = .ok) ∧ t.lastErr = r.err

theorem State.answers_succeed {s u : State} (hin : u.input = s.input) (hout : u.out = s.out) : s.Answers u.succeed :=
  ⟨⟨true, .ok⟩, hin, congrArg (· ++ _) hout, by simp, rfl⟩

theorem State.answers_fail {s u : State} {e : Err} (hin : u.input = s.input) (hout : u.out = s.out) (he : e ≠ .ok) :
    s.Answers (u.fail e) :=
  ⟨⟨false, e⟩, hin, congrArg (· ++ _) hout, by simp [he], rfl⟩

theorem State.answers_raiseFatal {s u : State} {c : FatalCause} (hin : u.input = s.input) (hout : u.out = s.out) :
    s.Answers (u.raiseFatal c) :=
  ⟨⟨false, .fatal c⟩, hin, congrArg (· ++ _) hout, by simp, rfl⟩

/-- The command at `s` completes, keeps the invariant and answers with one response. -/
def State.Handles (s : State) (r : Result) : Prop :=
  ∃ t, r = .next t ∧ t.Inv ∧ s.Answers t

theorem State.handles_succeed {s u : State} (h : u.Inv) (hf : u.fatal = false) (hin : u.input = s.input)
    (hout : u.out = s.out) : s.Handles (.next u.succeed) :=
  ⟨_, rfl, h.succeed hf, State.answers_succeed hin hout⟩

theorem State.handles_raiseFatal {s u : State} {c : FatalCause} (h : u.Inv) (hc : u.stage ∈ c.raisedAt)
    (hin : u.input = s.input) (hout : u.out = s.out) : s.Handles (.next (u.raiseFatal c)) :=
  ⟨_, rfl, h.raiseFatal hc, State.answers_raiseFatal hin hout⟩

theorem State.handles_fail {s u : State} {e : Err} (h : u.Inv) (hf : u.fatal = false) (he : e.runningCode = true)
    (hok : e ≠ .ok) (hin : u.input = s.input) (hout : u.out = s.out) : s.Handles (.next (u.fail e)) :=
  ⟨_, rfl, h.fail hf he, State.answers_fail hin hout hok⟩

/-! ### The packing commands -/

/-- The append of APF and APT from a state `u` that has done nothing on the port yet. -/
theorem State.handles_appendPayload {s u : State} {d : Buffers} (v : Bits) (h : u.Inv) (hr : u.Running d)
    (hi : u.stage = .idle) (hin : u.input = s.input) (hout : u.out = s.out) :
    s.Handles (.next (appendPayload u d v)) := by
  obtain ⟨hfit, heq⟩ | ⟨_, heq⟩ := appendPayload_cases u d v
  · rw [heq]
    have hw : (d.w ++ v).length ≤ u.cfg.wcap := by simpa using hfit
    exact State.handles_succeed (h.writePayload hr hi hw (h.fits hr.2).txt (h.txt_full hr)) hr.1 hin hout
  · rw [heq]
    exact State.handles_raiseFatal h (by simp [hi, FatalCause.raisedAt]) hin hout

section
variable {s : State} {d : Buffers}

theorem handles_execClr (h : s.Inv) (hr : s.Running d) (hi : s.stage = .idle) : s.Handles (execClr s) := by
  rw [execClr, onCommand_running hr.1, withData_some hr.2]
  exact State.handles_succeed (h.writePayload hr hi (Nat.zero_le _) (Nat.zero_le _) nofun) hr.1 rfl rfl

theorem State.Inv.openPacket (ch : BitVec 8) (h : s.Inv) (hf : s.fatal = false) (hi : s.stage = .idle) :
    (s.openPacket ch).Inv where
  cfg := h.cfg
  memory := Memory.wf_openPacket ch h.memory
  running := h.running
  halted hh := absurd (hf.symm.trans hh) nofun
  packet := ⟨⟨nofun, nofun⟩, fun _ => rfl, fun _ => rfl, nofun⟩
  idle := h.idle
  sequencer _ hn := absurd hi hn

theorem handles_execPkn (ch : BitVec 8) (h : s.Inv) (hf : s.fatal = false) (hi : s.stage = .idle) :
    s.Handles (execPkn ch s) := by
  rw [execPkn, onCommand_running hf]
  exact State.handles_succeed (h.openPacket ch hf hi) hf rfl rfl

theorem handles_execApf (value : BitVec 32) (width : BitVec 8) (h : s.Inv) (hr : s.Running d) (hi : s.stage = .idle) :
    s.Handles (execApf value width s) := by
  rw [execApf, onCommand_running hr.1, withData_some hr.2]
  split
  · exact State.handles_raiseFatal h (by simp [hi, FatalCause.raisedAt]) rfl rfl
  · exact State.handles_appendPayload _ h hr hi rfl rfl

theorem handles_execTxc (c : BitVec 8) (h : s.Inv) (hr : s.Running d) (hi : s.stage = .idle) :
    s.Handles (execTxc c s) := by
  have fits := h.fits hr.2
  rw [execTxc, onCommand_running hr.1, withData_some hr.2]
  split
  next hfull =>
    have hs : ({ s with tovf := true } : State).Inv := by
      have := h.writePayload hr hi fits.w fits.txt fun _ : true = true => hfull
      rwa [← hr.2] at this
    exact State.handles_fail hs hr.1 rfl nofun rfl rfl
  next hroom =>
    have htxt := fits.txt
    have hlen : (writeCells d.txt d.txt.length [c]).length ≤ s.cfg.txtCap := by simp; omega
    have hs := h.writePayload hr hi fits.w hlen fun ht => absurd (h.txt_full hr ht) hroom
    exact State.handles_succeed hs hr.1 rfl rfl

theorem handles_execApt (maxChars : BitVec 8) (h : s.Inv) (hr : s.Running d) (hi : s.stage = .idle) :
    s.Handles (execApt maxChars s) := by
  have consumed := h.writePayload (txt := []) (b := false) hr hi (h.fits hr.2).w (Nat.zero_le _) nofun
  rw [execApt, onCommand_running hr.1, withData_some hr.2]
  dsimp only
  split
  · exact State.handles_fail consumed hr.1 rfl nofun rfl rfl
  · exact State.handles_appendPayload _ consumed ⟨hr.1, rfl⟩ hi rfl rfl

end

/-! ### The micro-operations inside FIN -/

/-- `t` is reached inside a FIN presented at `s`: the FIN was answered by a fatal fault, or it goes on at the stage `n` and
has not answered yet. -/
def State.InFin (s : State) (n : Stage) (t : State) : Prop :=
  t.Inv ∧ (t.fatal = true ∧ s.Answers t ∨ t.fatal = false ∧ t.stage = n ∧ t.input = s.input ∧ t.out = s.out)

/-- The result `r` of a part of FIN is a state inside FIN. -/
def State.GoesOn (s : State) (n : Stage) (r : Result) : Prop :=
  ∃ t, r = .next t ∧ s.InFin n t

theorem State.InFin.trans {s t u : State} {m : Stage} (h : t.InFin m u) (hin : t.input = s.input)
    (hout : t.out = s.out) : s.InFin m u := by
  obtain ⟨hinv, ⟨hf, r, hrin, hrout, hr⟩ | ⟨hf, hst, huin, huout⟩⟩ := h
  · exact ⟨hinv, .inl ⟨hf, r, hrin.trans hin, hrout.trans (hout ▸ rfl), hr⟩⟩
  · exact ⟨hinv, .inr ⟨hf, hst, huin.trans hin, huout.trans hout⟩⟩

theorem State.goesOn_raiseFatal {s : State} {n : Stage} {c : FatalCause} (h : s.Inv) (hc : s.stage ∈ c.raisedAt) :
    s.GoesOn n (.next (s.raiseFatal c)) :=
  ⟨_, rfl, h.raiseFatal hc, .inl ⟨rfl, State.answers_raiseFatal rfl rfl⟩⟩

section
variable {s : State} {d : Buffers}

theorem State.goesOn_advance {d' : Buffers} {c : BitVec 16} {n : Stage} (h : s.Inv) (hr : s.Running d)
    (hs : s.stage ≠ .idle) (hn : n ≠ .idle) (hfit : d'.Fits s.cfg) (htxt : d'.txt = d.txt)
    (hw : n ∈ [Stage.b2b, .crc, .acrc, .brev] → d'.w.length % 8 = 0) (hrun : ∀ r ∈ d'.run, r.toNat ≤ 4) :
    s.GoesOn n (.next { s with data := some d', crc := c, stage := n }) :=
  ⟨_, rfl, h.advance hr hs hn hfit htxt hw hrun, .inr ⟨hr.1, rfl, rfl, rfl⟩⟩

theorem State.Inv.run_le (h : s.Inv) (hr : s.Running d) (hs : s.stage ≠ .idle) : ∀ r ∈ d.run, r.toNat ≤ 4 := by
  obtain ⟨_, hd⟩ := h.sequencer hr.1 hs
  obtain ⟨_, hrun⟩ := hd d hr.2
  exact hrun

/-- Up to U4 the payload is a whole number of bytes (R44, R152). -/
theorem State.Inv.wholeBytes (h : s.Inv) (hr : s.Running d) (hs : s.stage ∈ [Stage.b2b, .crc, .acrc, .brev]) :
    d.w.length % 8 = 0 := by
  have hne : s.stage ≠ .idle := by rintro hi; simp [hi] at hs
  obtain ⟨_, hd⟩ := h.sequencer hr.1 hne
  obtain ⟨hw, _⟩ := hd d hr.2
  exact hw hs

theorem goesOn_execB2b (h : s.Inv) (hr : s.Running d) (hs : s.stage = .b2b) : s.GoesOn .crc (execB2b s) := by
  have hw := h.wholeBytes hr (by simp [hs])
  have fits := h.fits hr.2
  have hne : s.stage ≠ .idle := by simp [hs]
  have hrun := h.run_le hr hne
  rw [execB2b, onMicro_running hr.1, withData_some hr.2, onWholeBytes_pos hw]
  exact State.goesOn_advance h hr hne nofun
    { fits with bytes := by rw [b2b_length]; exact Nat.div_le_div_right fits.w } rfl (fun _ => hw) hrun

theorem goesOn_execCrc (h : s.Inv) (hr : s.Running d) (hs : s.stage = .crc) : s.GoesOn .acrc (execCrc s) := by
  have hne : s.stage ≠ .idle := by simp [hs]
  have goes := State.goesOn_advance (c := crc16 s.cfg d.bytes) (n := .acrc) h hr hne nofun (h.fits hr.2) rfl
    (fun _ => h.wholeBytes hr (by simp [hs])) (h.run_le hr hne)
  rw [execCrc, onMicro_running hr.1, withData_some hr.2]
  rwa [← hr.2] at goes

theorem goesOn_execAcrc (h : s.Inv) (hr : s.Running d) (hs : s.stage = .acrc) : s.GoesOn .brev (execAcrc s) := by
  have hne : s.stage ≠ .idle := by simp [hs]
  have hrun := h.run_le hr hne
  have fits := h.fits hr.2
  rw [execAcrc, onMicro_running hr.1, withData_some hr.2]
  split
  · exact State.goesOn_raiseFatal h (by simp [hs, FatalCause.raisedAt])
  next hroom =>
    have hlen : (writeCells d.w d.w.length (crcTrailer s.crc)).length = d.w.length + 16 := by simp
    have hw : (writeCells d.w d.w.length (crcTrailer s.crc)).length % 8 = 0 := by
      have := h.wholeBytes hr (by simp [hs])
      omega
    have hcap : (writeCells d.w d.w.length (crcTrailer s.crc)).length ≤ s.cfg.wcap := by omega
    dsimp only
    rw [onWholeBytes_pos hw]
    exact State.goesOn_advance h hr hne nofun
      { fits with w := hcap, bytes := by rw [b2b_length]; exact Nat.div_le_div_right hcap } rfl (fun _ => hw)
      hrun

theorem goesOn_execBrev (h : s.Inv) (hr : s.Running d) (hs : s.stage = .brev) : s.GoesOn .stuf (execBrev s) := by
  have hne : s.stage ≠ .idle := by simp [hs]
  have hrun := h.run_le hr hne
  have hw := h.wholeBytes hr (by simp [hs])
  have fits := h.fits hr.2
  rw [execBrev, onMicro_running hr.1, withData_some hr.2, onWholeBytes_pos hw, writeCells_zero (brev_length hw).ge]
  exact State.goesOn_advance h hr hne nofun
    { fits with w := (brev_length hw).trans_le fits.w, bytes := by rw [List.length_map]; exact fits.bytes } rfl
    (by simp) hrun

theorem goesOn_execStuf (h : s.Inv) (hr : s.Running d) (hs : s.stage = .stuf) : s.GoesOn .wrap (execStuf s) := by
  have fits := h.fits hr.2
  rw [execStuf, onMicro_running hr.1, withData_some hr.2]
  dsimp only
  rw [writeCells_zero (v := stuf d.w) (stufFrom_length_ge 0 d.w)]
  split
  · exact State.goesOn_raiseFatal h (by simp [hs, FatalCause.raisedAt])
  next hroom =>
    refine State.goesOn_advance h hr (by simp [hs]) nofun { fits with w := Nat.le_of_not_gt hroom } rfl (by simp) ?_
    rintro _ ⟨⟩
    have hle := runAfter_le (run := 0) (by omega) d.w
    rw [BitVec.toNat_ofNat]
    omega

theorem goesOn_execWrap (h : s.Inv) (hr : s.Running d) (hs : s.stage = .wrap) : s.GoesOn .nrzi (execWrap s) := by
  have hne : s.stage ≠ .idle := by simp [hs]
  have hrun := h.run_le hr hne
  have fits := h.fits hr.2
  rw [execWrap, onMicro_running hr.1, withData_some hr.2, writeCells_zero (by simp)]
  split
  · exact State.goesOn_raiseFatal h (by simp [hs, FatalCause.raisedAt])
  next hroom =>
    exact State.goesOn_advance h hr hne nofun
      { fits with w := by rw [wrap_length]; omega } rfl (by simp) hrun

theorem goesOn_execNrzi (h : s.Inv) (hr : s.Running d) (hs : s.stage = .nrzi) : s.GoesOn .emit (execNrzi s) := by
  have hne : s.stage ≠ .idle := by simp [hs]
  have hrun := h.run_le hr hne
  have fits := h.fits hr.2
  rw [execNrzi, onMicro_running hr.1, withData_some hr.2]
  exact State.goesOn_advance h hr hne nofun
    { fits with line := by rw [nrzi_length]; exact Nat.succ_le_succ fits.w } rfl (by simp) hrun

end

/-- Inside FIN every micro-operation but EMIT completes, and FIN goes on at the stage that follows or was answered by a fault. -/
theorem exec_goesOn {s : State} {n : Stage} {i : Instr} (hi : decode (.micro n.code) = .ok i) (he : i ≠ .emit)
    (h : s.Inv) (hf : s.fatal = false) (hs : s.stage = n) : s.GoesOn n.following (exec i s) := by
  obtain ⟨d, hr⟩ := h.exists_running hf
  cases n with
  | idle => cases hi
  | b2b => cases hi; exact goesOn_execB2b h hr hs
  | crc => cases hi; exact goesOn_execCrc h hr hs
  | acrc => cases hi; exact goesOn_execAcrc h hr hs
  | brev => cases hi; exact goesOn_execBrev h hr hs
  | stuf => cases hi; exact goesOn_execStuf h hr hs
  | wrap => cases hi; exact goesOn_execWrap h hr hs
  | nrzi => cases hi; exact goesOn_execNrzi h hr hs
  | emit => cases hi; exact absurd rfl he

/-- A part of FIN goes on with one micro-operation more; after a fatal fault that one changes nothing (R156). -/
theorem State.GoesOn.thenMicro {s : State} {n : Stage} {i : Instr} {r : Result} (h : s.GoesOn n r)
    (hi : decode (.micro n.code) = .ok i) (he : i ≠ .emit) : s.GoesOn n.following (andThen r (exec i)) := by
  obtain ⟨t, rfl, hinv, ⟨hf, ha⟩ | ⟨hf, hst, hin, hout⟩⟩ := h
  · exact ⟨t, exec_micro_halted hi hf, hinv, .inl ⟨hf, ha⟩⟩
  · obtain ⟨u, hu, hfin⟩ := exec_goesOn hi he hinv hf hst
    exact ⟨u, hu, hfin.trans hin hout⟩

/-! ### EMIT and the completion -/

/-- The required length is at least the length (R138). -/
theorem le_reqLen {cfg : Cfg} (hq : 1 ≤ cfg.padQ) (n : Nat) : n ≤ reqLen cfg n := by
  have hdiv := Nat.div_add_mod (n + cfg.padQ - 1) cfg.padQ
  have hmod := Nat.mod_lt (n + cfg.padQ - 1) hq
  unfold reqLen
  omega

theorem reqLen_mod (cfg : Cfg) (n : Nat) : reqLen cfg n % cfg.padQ = 0 :=
  Nat.mul_mod_right _ _

/-- Completion from a state whose packet holds a padded frame of its capacity (R139, R153). -/
theorem State.Inv.complete {s : State} {d : Buffers} {q : Bits} (h : s.Inv) (hr : s.Running d) (ho : s.pktSt = .opened)
    (hcap : q.length ≤ s.cfg.pktCap) (hpad : q.length % s.cfg.padQ = 0) :
    (({ s with pktBits := some q, stage := .idle } : State).complete d).Inv := by
  have htxt := h.txt_full hr
  obtain ⟨hf, hd⟩ := hr
  obtain ⟨_, hcause, hfstage, _, _⟩ := h.running hf
  obtain ⟨⟨_, hchan⟩, _⟩ := h.packet
  have hmem : Memory.wf ({ s with pktBits := some q, stage := .idle } : State) = true := by
    obtain ⟨hdata, _⟩ := (Memory.wf_iff s).1 h.memory
    exact (Memory.wf_iff _).2 ⟨hdata, by rintro _ ⟨⟩; exact hcap⟩
  exact {
    cfg := h.cfg
    memory := Memory.wf_complete hd hmem
    running := fun _ => ⟨rfl, hcause, hfstage, rfl, by rintro ht _ ⟨⟩; exact htxt ht⟩
    halted := fun hh => absurd (hf.symm.trans hh) nofun
    packet := ⟨⟨nofun, fun hc => absurd (ho.symm.trans (hchan hc)) nofun⟩, fun _ => rfl, nofun, by
      rintro _ _ ⟨⟩; exact hpad⟩
    idle := by rintro _ _ ⟨⟩; exact ⟨rfl, rfl, rfl, rfl⟩
    sequencer := fun _ hn => absurd rfl hn }

/-- Padding brings a sequence to its required length (R138). -/
theorem pad_length {cfg : Cfg} (hq : 1 ≤ cfg.padQ) (s : Bits) : (pad cfg s).length = reqLen cfg s.length := by
  have hle := le_reqLen hq s.length
  simp only [pad, List.length_append, List.length_replicate]
  omega

/-- EMIT into an empty OPEN packet: the padded line, or `F_PKTCAP` where it does not fit (R139). -/
theorem execEmit_empty {s : State} {d : Buffers} (hr : s.Running d) (ho : s.pktSt = .opened) (hb : s.pktBits = some []) :
    execEmit s =
      if reqLen s.cfg d.line.length > s.cfg.pktCap then .next (s.raiseFatal .pktCap)
      else .next { s with pktBits := some (pad s.cfg d.line), stage := .idle } := by
  obtain ⟨hf, hd⟩ := hr
  rw [execEmit, onMicro_running hf, withData_some hd, if_neg (not_not_intro ho), hb]
  simp only [List.length_nil, Nat.zero_add, pad]
  rw [writeCells_zero (Nat.zero_le _), writeCells_at_length]

/-- EMIT and the completion, from U8 of a FIN. -/
theorem handles_emit {s : State} (h : s.Inv) (hf : s.fatal = false) (hs : s.stage = .emit) :
    s.Handles (andThen (execEmit s) finish) := by
  obtain ⟨d, hr⟩ := h.exists_running hf
  obtain ⟨ho, _⟩ := h.sequencer hf (by simp [hs])
  obtain ⟨_, _, hbits, _⟩ := h.packet
  obtain ⟨_, _, _, _, hq⟩ := h.cfg
  rw [execEmit_empty hr ho (hbits ho)]
  split
  · rw [andThen_next, finish_halted rfl]
    exact State.handles_raiseFatal h (by simp [hs, FatalCause.raisedAt]) rfl rfl
  next hroom =>
    have hlen := pad_length hq d.line
    have hinv := h.complete (q := pad s.cfg d.line) hr ho (by omega) (hlen ▸ reqLen_mod _ _)
    exact ⟨_, finish_running hr, hinv, State.answers_succeed rfl rfl⟩

/-! ### FIN and every command -/

/-- A FIN that has come to U8, or was answered by a fault on the way, is answered once. -/
theorem State.GoesOn.handles {s : State} {r : Result} (h : s.GoesOn .emit r) :
    s.Handles (andThen (andThen r execEmit) finish) := by
  obtain ⟨t, rfl, hinv, ⟨hf, ha⟩ | ⟨hf, hst, hin, hout⟩⟩ := h
  · rw [andThen_next, execEmit, onMicro_halted hf, andThen_next, finish_halted hf]
    exact ⟨t, rfl, hinv, ha⟩
  · obtain ⟨u, hu, huinv, r, hrin, hrout, hr⟩ := handles_emit hinv hf hst
    exact ⟨u, hu, huinv, r, hrin.trans hin, hrout.trans (hout ▸ rfl), hr⟩

/-- FIN's sequence, from the state its entry leaves. -/
theorem handles_stages {s : State} (h : s.Inv) (hf : s.fatal = false) (hs : s.stage = .b2b) :
    s.Handles (andThen (runStages s) finish) := by
  have afterB2b : s.GoesOn .crc (execB2b s) := exec_goesOn (i := .b2b) rfl nofun h hf hs
  have afterCrc := afterB2b.thenMicro (i := .crc) rfl nofun
  have afterAcrc := afterCrc.thenMicro (i := .acrc) rfl nofun
  have afterBrev := afterAcrc.thenMicro (i := .brev) rfl nofun
  have afterStuf := afterBrev.thenMicro (i := .stuf) rfl nofun
  have afterWrap := afterStuf.thenMicro (i := .wrap) rfl nofun
  have afterNrzi := afterWrap.thenMicro (i := .nrzi) rfl nofun
  exact afterNrzi.handles

theorem State.Inv.enterFin {s : State} {d : Buffers} (h : s.Inv) (hr : s.Running d) (hi : s.stage = .idle)
    (ho : s.pktSt = .opened) (hw : d.w.length % 8 = 0) : s.enterFin.Inv where
  cfg := h.cfg
  memory := h.memory
  running := h.running
  halted hh := absurd (hr.1.symm.trans hh) nofun
  packet := h.packet
  idle := nofun
  sequencer := by
    refine fun _ _ => ⟨ho, fun e he => ?_⟩
    obtain rfl : d = e := Option.some.inj (hr.2.symm.trans he)
    obtain ⟨_, _, hrun, _⟩ := h.idle hi d hr.2
    exact ⟨fun _ => hw, by simp [hrun]⟩

theorem handles_execFin {s : State} {d : Buffers} (h : s.Inv) (hr : s.Running d) (hi : s.stage = .idle) :
    s.Handles (execFin s) := by
  obtain ⟨hf, hd⟩ := hr
  rw [execFin, onCommand_running hf]
  split
  · exact State.handles_fail h hf rfl nofun rfl rfl
  next ho =>
    rw [withData_some hd]
    split
    · exact ⟨_, rfl, State.inv_raiseFatal h.cfg h.memory h.packet (by simp [FatalCause.raisedAt]),
        State.answers_raiseFatal rfl rfl⟩
    next hw =>
      have entered := h.enterFin ⟨hf, hd⟩ hi (not_not.1 ho) (not_not.1 hw)
      exact handles_stages entered hf rfl

theorem eq_of_mustBeZero {op a : BitVec 8} {d : BitVec 32} {i j : Instr} (h : mustBeZero op a d i = .ok j) : i = j := by
  unfold mustBeZero at h
  split at h
  · cases h
  · split at h
    · cases h
    · exact Except.ok.inj h

/-- A command word decodes to a host command only (R61, R63). -/
theorem issuable_of_decode {w : BitVec 48} {i : Instr} (h : decode (.command w) = .ok i) : i.issuable = true := by
  change decodeFields _ _ _ = _ at h
  unfold decodeFields at h
  split at h
  · exact eq_of_mustBeZero h ▸ rfl
  split at h
  · exact eq_of_mustBeZero h ▸ rfl
  split at h
  · exact Except.ok.inj h ▸ rfl
  split at h
  · exact eq_of_mustBeZero h ▸ rfl
  split at h
  · exact eq_of_mustBeZero h ▸ rfl
  split at h
  · exact eq_of_mustBeZero h ▸ rfl
  · cases h

/-- From every state of the invariant a running block that executes no FIN completes every command, keeps the invariant and answers
with one response (R80, R198). -/
theorem handles_exec {s : State} {i : Instr} (hissue : i.issuable = true) (h : s.Inv) (hf : s.fatal = false)
    (hi : s.stage = .idle) : s.Handles (exec i s) := by
  obtain ⟨d, hr⟩ := h.exists_running hf
  cases i with
  | clr => exact handles_execClr h hr hi
  | pkn ch => exact handles_execPkn ch h hf hi
  | apf value width => exact handles_execApf value width h hr hi
  | txc c => exact handles_execTxc c h hr hi
  | apt maxChars => exact handles_execApt maxChars h hr hi
  | fin => exact handles_execFin h hr hi
  | b2b | crc | acrc | brev | stuf | wrap | nrzi | emit => cases hissue

/-- A micro-operation of a FIN in progress completes and keeps the invariant, U8 with the completion of FIN. -/
theorem afterMicro_keeps_inv {s : State} {i : Instr} (hi : decode (.micro s.stage.code) = .ok i) (h : s.Inv)
    (hf : s.fatal = false) : ∃ t, afterMicro i (exec i s) = .next t ∧ t.Inv := by
  by_cases he : i = .emit
  · obtain rfl := he
    have hs : s.stage = .emit := by
      cases hs : s.stage <;> rw [hs] at hi <;> cases hi
    obtain ⟨t, ht, hinv, _⟩ := handles_emit h hf hs
    exact ⟨t, ht, hinv⟩
  · obtain ⟨t, ht, hinv, _⟩ := exec_goesOn hi he h hf rfl
    exact ⟨t, (if_neg he).trans ht, hinv⟩

/-- Every step from a state of the invariant completes in one (R198, R221). -/
theorem step_inv {s : State} (h : s.Inv) : ∃ t, step s = .next t ∧ t.Inv := by
  rcases step_cases s with ⟨_, hs⟩ | ⟨_, _, hs⟩ | ⟨_, _, _, _, hs⟩ | ⟨_, _, _, _, hf, _, _, hs⟩ |
    ⟨_, _, i, _, hf, hi, hdec, hs⟩ | ⟨i, hf, hdec, hs⟩
  · exact ⟨_, hs, h⟩
  · exact ⟨_, hs, h.takeInput.resetEvent⟩
  · exact ⟨_, hs, h.takeInput.refuseHalted⟩
  · exact ⟨_, hs, h.takeInput.fail hf rfl⟩
  · obtain ⟨t, ht, hinv, _⟩ := handles_exec (issuable_of_decode hdec) h.takeInput hf hi
    exact ⟨t, hs.trans ht, hinv⟩
  · obtain ⟨t, ht, hinv⟩ := afterMicro_keeps_inv hdec h hf
    exact ⟨t, hs.trans ht, hinv⟩

/-- Settles O14: every step from a state of the invariant has one that meets it, and it is the only one. -/
theorem stepKeepsInvariant : Obligations.StepKeepsInvariant := by
  intro s t h hstep
  obtain ⟨u, hu, hinv⟩ := step_inv h
  obtain rfl : u = t := Host.Outcome.next.inj (hu.symm.trans hstep)
  exact hinv

/-- What a block that executes no FIN does with a command word: it refuses it, rejects it, or executes it (R67). -/
theorem step_command_cases {s : State} {w : BitVec 48} {rest : List Input} (hport : s.fatal = true ∨ s.stage = .idle)
    (hin : s.input = .command w :: rest) :
    (s.fatal = true ∧ step s = .next s.takeInput.refuseHalted) ∨
      (s.fatal = false ∧ step s = .next (s.takeInput.fail .illegal)) ∨
      ∃ i, s.fatal = false ∧ s.stage = .idle ∧ i.issuable = true ∧ step s = exec i s.takeInput := by
  rcases step_cases s with ⟨h, _⟩ | ⟨_, h, _⟩ | ⟨_, _, _, hf, hs⟩ | ⟨_, _, _, _, hf, _, _, hs⟩ |
    ⟨_, _, i, _, hf, hi, hdec, hs⟩ | ⟨i, hf, hdec, _⟩
  · exact absurd (hin.symm.trans h) nofun
  · exact absurd (hin.symm.trans h) nofun
  · exact .inl ⟨hf, hs⟩
  · exact .inr (.inl ⟨hf, hs⟩)
  · exact .inr (.inr ⟨i, hf, hi, issuable_of_decode hdec, hs⟩)
  · have hi : s.stage = .idle := hport.resolve_left (by simp [hf])
    exact absurd hdec (by simp [hi])

/-- A command word at a running block is answered once (R25, R80). -/
theorem step_answers {s : State} {w : BitVec 48} {rest : List Input} (h : s.Inv) (hf : s.fatal = false)
    (hi : s.stage = .idle) (hin : s.input = .command w :: rest) : ∃ t, step s = .next t ∧ s.takeInput.Answers t := by
  obtain ⟨hh, _⟩ | ⟨_, hs⟩ | ⟨i, _, _, hissue, hs⟩ := step_command_cases (.inr hi) hin
  · exact absurd (hf.symm.trans hh) nofun
  · exact ⟨_, hs, State.answers_fail rfl rfl nofun⟩
  · obtain ⟨t, ht, _, ha⟩ := handles_exec hissue h.takeInput hf hi
    exact ⟨t, hs.trans ht, ha⟩

/-- Settles O16. -/
theorem oneResponsePerCommand : Obligations.OneResponsePerCommand := by
  intro s w rest h hport hin
  have htail : s.takeInput.input = rest := congrArg List.tail hin
  cases hf : s.fatal with
  | true =>
    have hs : step s = .next s.takeInput.refuseHalted := by
      obtain ⟨_, hs⟩ | ⟨hr, _⟩ | ⟨_, hr, _⟩ := step_command_cases hport hin
      · exact hs
      all_goals exact absurd (hf.symm.trans hr) nofun
    exact ⟨_, ⟨false, .halted⟩, hs, htail, rfl, by simp, nofun, fun _ => ⟨rfl, rfl⟩⟩
  | false =>
    have hi : s.stage = .idle := hport.resolve_left (by simp [hf])
    obtain ⟨t, hs, r, htin, hout, hok, herr⟩ := step_answers h hf hi hin
    exact ⟨t, r, hs, htin.trans htail, hout, hok, fun _ => herr, nofun⟩

/-! ### What no instruction but PKN, and but CRC, writes -/

/-- `u` agrees with `s` in the packet's tag, and in `CRC` unless `i` is U2. -/
def State.Keeps (s : State) (i : Instr) (u : State) : Prop :=
  u.pktSt = s.pktSt ∧ u.pktChan = s.pktChan ∧ (i ≠ .crc → u.crc = s.crc)

/-- `t` is a state that keeps these registers, or a fatal fault raised there. -/
def State.KeepsOrFaults (s : State) (i : Instr) (t : State) : Prop :=
  ∃ u, s.Keeps i u ∧ (t = u ∨ ∃ c, t = u.raiseFatal c)

section
variable {s t : State} {i : Instr}

theorem State.Keeps.orFaults (h : s.Keeps i t) : s.KeepsOrFaults i t := ⟨t, h, .inl rfl⟩

theorem State.Keeps.raiseFatal (h : s.Keeps i t) (c : FatalCause) : s.KeepsOrFaults i (t.raiseFatal c) :=
  ⟨t, h, .inr ⟨c, rfl⟩⟩

theorem State.Keeps.refl (s : State) (i : Instr) : s.Keeps i s := ⟨rfl, rfl, fun _ => rfl⟩

/-- A command keeps the registers if its own rule does. -/
theorem keepsOrFaults_of_onCommand {k : Buffers → Result} (h : onCommand s (withData s k) = .next t)
    (hk : ∀ d, k d = .next t → s.KeepsOrFaults i t) : s.KeepsOrFaults i t := by
  obtain ⟨_, rfl⟩ | ⟨_, h⟩ := onCommand_eq_next h
  · exact State.Keeps.orFaults ⟨rfl, rfl, fun _ => rfl⟩
  · obtain ⟨d, _, h⟩ := withData_eq_next h
    exact hk d h

/-- A micro-operation keeps the registers if its own rule does. -/
theorem keepsOrFaults_of_onMicro {k : Buffers → Result} (h : onMicro s (withData s k) = .next t)
    (hk : ∀ d, k d = .next t → s.KeepsOrFaults i t) : s.KeepsOrFaults i t := by
  obtain ⟨_, rfl⟩ | ⟨_, h⟩ := onMicro_eq_next h
  · exact (State.Keeps.refl t i).orFaults
  · obtain ⟨d, _, h⟩ := withData_eq_next h
    exact hk d h

/-- A rule that raises a fatal fault where a check fails keeps the registers if what it does otherwise does. -/
theorem keepsOrFaults_of_check {p : Prop} [Decidable p] {c : FatalCause} {k : Result}
    (h : (if p then .next (s.raiseFatal c) else k) = .next t) (hk : k = .next t → s.KeepsOrFaults i t) :
    s.KeepsOrFaults i t := by
  split at h
  · cases h; exact (State.Keeps.refl s i).raiseFatal c
  · exact hk h

theorem keepsOrFaults_appendPayload {u : State} (d : Buffers) (v : Bits) (h : s.Keeps i u) :
    s.KeepsOrFaults i (appendPayload u d v) := by
  obtain ⟨_, heq⟩ | ⟨_, heq⟩ := appendPayload_cases u d v
  · rw [heq]; exact State.Keeps.orFaults h
  · rw [heq]; exact h.raiseFatal .overrun

/-- What a rule answers where it completes keeps the registers. -/
theorem keepsOrFaults_of_next {u : State} (h : (.next u : Result) = .next t) (hu : s.Keeps i u) : s.KeepsOrFaults i t := by
  cases h; exact hu.orFaults

end

/-- Every instruction but PKN and FIN keeps the packet's tag, and every one but U2 also `CRC`, unless it raises a fatal fault. -/
theorem exec_keepsOrFaults {s t : State} {i : Instr} (h : exec i s = .next t) (hpkn : ∀ ch, i ≠ .pkn ch)
    (hfin : i ≠ .fin) : s.KeepsOrFaults i t := by
  cases i with
  | clr => exact keepsOrFaults_of_onCommand h fun d h => keepsOrFaults_of_next h ⟨rfl, rfl, fun _ => rfl⟩
  | pkn ch => exact absurd rfl (hpkn ch)
  | apf value width =>
    exact keepsOrFaults_of_onCommand h fun d h => keepsOrFaults_of_check h fun h => by
      cases h; exact keepsOrFaults_appendPayload d _ (.refl s _)
  | txc c =>
    refine keepsOrFaults_of_onCommand h fun d h => ?_
    split at h
    · exact keepsOrFaults_of_next h ⟨rfl, rfl, fun _ => rfl⟩
    · exact keepsOrFaults_of_next h ⟨rfl, rfl, fun _ => rfl⟩
  | apt maxChars =>
    refine keepsOrFaults_of_onCommand h fun d h => ?_
    dsimp only at h
    split at h
    · exact keepsOrFaults_of_next h ⟨rfl, rfl, fun _ => rfl⟩
    · cases h; exact keepsOrFaults_appendPayload _ _ ⟨rfl, rfl, fun _ => rfl⟩
  | fin => exact absurd rfl hfin
  | b2b =>
    exact keepsOrFaults_of_onMicro h fun d h =>
      keepsOrFaults_of_next (onWholeBytes_eq_next h).2 ⟨rfl, rfl, fun _ => rfl⟩
  | crc => exact keepsOrFaults_of_onMicro h fun d h => keepsOrFaults_of_next h ⟨rfl, rfl, fun hc => absurd rfl hc⟩
  | acrc =>
    exact keepsOrFaults_of_onMicro h fun d h => keepsOrFaults_of_check h fun h =>
      keepsOrFaults_of_next (onWholeBytes_eq_next h).2 ⟨rfl, rfl, fun _ => rfl⟩
  | brev =>
    exact keepsOrFaults_of_onMicro h fun d h =>
      keepsOrFaults_of_next (onWholeBytes_eq_next h).2 ⟨rfl, rfl, fun _ => rfl⟩
  | stuf =>
    exact keepsOrFaults_of_onMicro h fun d h => keepsOrFaults_of_check h fun h =>
      keepsOrFaults_of_next h ⟨rfl, rfl, fun _ => rfl⟩
  | wrap =>
    exact keepsOrFaults_of_onMicro h fun d h => keepsOrFaults_of_check h fun h =>
      keepsOrFaults_of_next h ⟨rfl, rfl, fun _ => rfl⟩
  | nrzi => exact keepsOrFaults_of_onMicro h fun d h => keepsOrFaults_of_next h ⟨rfl, rfl, fun _ => rfl⟩
  | emit =>
    refine keepsOrFaults_of_onMicro h fun d h => ?_
    split at h
    · cases h
    · split at h
      · cases h
      · exact keepsOrFaults_of_check h fun h => keepsOrFaults_of_next h ⟨rfl, rfl, fun _ => rfl⟩

/-- Settles O46. -/
theorem onlyCrcStepWritesCrc : Obligations.OnlyCrcStepWritesCrc := by
  intro i s t h hcrc hfin
  by_cases hpkn : ∃ ch, i = .pkn ch
  · obtain ⟨ch, rfl⟩ := hpkn
    obtain ⟨_, rfl⟩ | ⟨_, h⟩ := onCommand_eq_next h
    · rfl
    · cases h; rfl
  · obtain ⟨u, ⟨_, _, hkept⟩, rfl | ⟨c, rfl⟩⟩ := exec_keepsOrFaults h (fun ch hi => hpkn ⟨ch, hi⟩) hfin
    · exact hkept hcrc
    · exact hkept hcrc

/-- The packet keeps its tag, or an OPEN one was lost at a fatal fault (R183). -/
def State.KeepsTag (s t : State) : Prop :=
  (t.pktSt = s.pktSt ∧ t.pktChan = s.pktChan) ∨ (t.pktChan = none ∧ t.fatal = true ∧ s.pktSt = .opened)

/-- `PKT.chan` is kept, or was lost with an OPEN packet at a fatal fault (R183). -/
def State.KeepsChan (s t : State) : Prop :=
  t.pktChan = s.pktChan ∨ (t.pktChan = none ∧ t.fatal = true ∧ s.pktSt = .opened)

theorem State.KeepsTag.keepsChan {s t : State} (h : s.KeepsTag t) : s.KeepsChan t :=
  h.imp_left And.right

theorem State.keepsTag_raiseFatal (s : State) (c : FatalCause) : s.KeepsTag (s.raiseFatal c) := by
  by_cases ho : s.pktSt = .opened
  · exact .inr ⟨by simp [ho], rfl, ho⟩
  · exact .inl ⟨by simp [ho], by simp [ho]⟩

theorem State.KeepsOrFaults.keepsTag {s t : State} {i : Instr} (h : s.KeepsOrFaults i t) : s.KeepsTag t := by
  obtain ⟨u, ⟨hst, hchan, _⟩, rfl | ⟨c, rfl⟩⟩ := h
  · exact .inl ⟨hst, hchan⟩
  · have := u.keepsTag_raiseFatal c
    rwa [State.KeepsTag, hst, hchan] at this

theorem format_of_decode_micro {n : Stage} {i : Instr} (hi : decode (.micro n.code) = .ok i) : i.format = .u := by
  cases n <;> cases hi <;> rfl

/-- One micro-operation more keeps the tag; after a fatal fault it changes nothing (R156). -/
theorem keepsTag_thenMicro {s : State} {r : Result} {n : Stage} {i : Instr} (hr : ∀ t, r = .next t → s.KeepsTag t)
    (hi : decode (.micro n.code) = .ok i) (u : State) (hu : andThen r (exec i) = .next u) : s.KeepsTag u := by
  obtain ⟨t, ht, hu⟩ := andThen_eq_next hu
  have hformat := format_of_decode_micro hi
  obtain ⟨hst, hchan⟩ | ⟨hlost, hf, ho⟩ := hr t ht
  · have htag := (exec_keepsOrFaults hu (by rintro _ rfl; cases hformat) (by rintro rfl; cases hformat)).keepsTag
    rwa [State.KeepsTag, hst, hchan] at htag
  · obtain rfl : t = u := Host.Outcome.next.inj ((exec_micro_halted hi hf).symm.trans hu)
    exact .inr ⟨hlost, hf, ho⟩

theorem runStages_keepsTag {s : State} : ∀ t, runStages s = .next t → s.KeepsTag t := by
  have atEntry : ∀ t, (.next s : Result) = .next t → s.KeepsTag t := by rintro _ ⟨⟩; exact .inl ⟨rfl, rfl⟩
  have afterB2b := keepsTag_thenMicro atEntry (i := .b2b) (n := .b2b) rfl
  have afterCrc := keepsTag_thenMicro afterB2b (i := .crc) (n := .crc) rfl
  have afterAcrc := keepsTag_thenMicro afterCrc (i := .acrc) (n := .acrc) rfl
  have afterBrev := keepsTag_thenMicro afterAcrc (i := .brev) (n := .brev) rfl
  have afterStuf := keepsTag_thenMicro afterBrev (i := .stuf) (n := .stuf) rfl
  have afterWrap := keepsTag_thenMicro afterStuf (i := .wrap) (n := .wrap) rfl
  have afterNrzi := keepsTag_thenMicro afterWrap (i := .nrzi) (n := .nrzi) rfl
  exact keepsTag_thenMicro afterNrzi (i := .emit) (n := .emit) rfl

/-- The completion writes neither `PKT.chan` nor `FATAL`. -/
theorem finish_keepsChan {s t : State} (h : finish s = .next t) : t.pktChan = s.pktChan ∧ t.fatal = s.fatal := by
  obtain ⟨_, rfl⟩ | ⟨_, h⟩ := onMicro_eq_next h
  · exact ⟨rfl, rfl⟩
  · obtain ⟨d, _, h⟩ := withData_eq_next h
    cases h
    exact ⟨rfl, rfl⟩

/-- FIN keeps `PKT.chan`, or loses it with the OPEN packet at a fatal fault. -/
theorem execFin_keepsChan {s t : State} (h : execFin s = .next t) : s.KeepsChan t := by
  obtain ⟨_, rfl⟩ | ⟨_, h⟩ := onCommand_eq_next h
  · exact .inl rfl
  split at h
  · cases h; exact .inl rfl
  obtain ⟨d, _, h⟩ := withData_eq_next h
  split at h
  · cases h; exact (s.enterFin.keepsTag_raiseFatal .align).keepsChan
  · obtain ⟨u, hu, hfinish⟩ := andThen_eq_next h
    obtain ⟨hchan, hfatal⟩ := finish_keepsChan hfinish
    have hkept : s.KeepsChan u := (runStages_keepsTag u hu).keepsChan
    rwa [State.KeepsChan, hchan, hfatal]

/-- Settles O44. -/
theorem onlyPknWritesChannel : Obligations.OnlyPknWritesChannel := by
  intro i s t h hpkn
  by_cases hfin : i = .fin
  · obtain rfl := hfin
    exact execFin_keepsChan h
  · exact (exec_keepsOrFaults h hpkn hfin).keepsTag.keepsChan

end Sys2Proof.Machine
end

/-!
SUPPORT. What an instruction leaves of the memories as it was (spec/20_memory.md): the cells outside those APF writes (R40, R47), and the
frame the radio driver reads (R49). For the second, `State.KeepsView` says it of a result, with one rule for each guard and branch a meaning
is made of, so that the proof for an instruction follows the shape of its meaning.
-/

namespace Sys2Proof.Machine

/-! ### Reading cells -/

/-- A read depends on the cells of its space only. -/
theorem State.memRead_congr {s t : State} {sp : Space} (h : t.cells sp = s.cells sp) (i n : Nat) :
    t.memRead sp i n = s.memRead sp i n := by
  simp only [State.memRead, h]

/-- A read of one cell is that cell, where the space has it (R40). -/
theorem State.memRead_one {s : State} {sp : Space} {cells : List Cell} (h : s.cells sp = some cells) (i : Nat) :
    s.memRead sp i 1 = cells[i]?.map fun c => [c] := by
  simp only [State.memRead, h]
  split
  next hi =>
    rw [List.take_one, List.head?_drop, List.getElem?_eq_getElem (by omega)]
    rfl
  next hi =>
    rw [List.getElem?_eq_none (by omega)]
    rfl

/-- A read of all that was appended to a space. -/
theorem State.memRead_appended {s : State} {sp : Space} {cells v : List Cell} (h : s.cells sp = some (cells ++ v)) :
    s.memRead sp cells.length v.length = some v := by
  simp [State.memRead, h]

/-! ### What APF writes -/

/-- `s` with the bits `v` appended to the payload `d.w`. -/
def State.appendBits (s : State) (d : Buffers) (v : Bits) : State :=
  { s with data := some { d with w := d.w ++ v } }

/-- An append to the payload changes the cells of no space but `W`. -/
theorem State.cells_appendBits {s : State} {d : Buffers} (hd : s.data = some d) (v : Bits) {sp : Space} (hsp : sp ≠ .w) :
    (s.appendBits d v).cells sp = s.cells sp := by
  cases sp with
  | w => exact absurd rfl hsp
  | txt | bytes | line => simp only [State.cells, State.appendBits, hd, Option.map_some]
  | pkt => rfl

/-- After an append to the payload, a cell of `W` outside the appended ones reads as before. -/
theorem State.memRead_appendBits_outside {s : State} {d : Buffers} {v : Bits} {i : Nat} (hd : s.data = some d)
    (hi : i < d.w.length ∨ d.w.length + v.length ≤ i) :
    (s.appendBits d v).memRead .w i 1 = s.memRead .w i 1 := by
  have before : s.cells .w = some (d.w.map Cell.bit) := by simp only [State.cells, hd, Option.map_some]
  have after : (s.appendBits d v).cells .w = some ((d.w ++ v).map Cell.bit) := rfl
  have outside : (d.w ++ v)[i]? = d.w[i]? := by
    rw [← writeCells_at_length]
    exact writeCells_get_outside v le_rfl hi
  rw [State.memRead_one before, State.memRead_one after, List.getElem?_map, List.getElem?_map, outside]

/-- After an append to the payload, the appended cells of `W` read as what was appended. -/
theorem State.memRead_appendBits_inside (s : State) (d : Buffers) (v : Bits) :
    (s.appendBits d v).memRead .w d.w.length v.length = some (v.map Cell.bit) := by
  have after : (s.appendBits d v).cells .w = some (d.w.map Cell.bit ++ v.map Cell.bit) :=
    congrArg some List.map_append
  simpa only [List.length_map] using State.memRead_appended after

/-- An APF that raises no fatal fault appended its field. -/
theorem exec_apf_eq_next {s t : State} {d : Buffers} {value : BitVec 32} {width : BitVec 8} (hr : s.Running d)
    (h : exec (.apf value width) s = .next t) (hf : t.fatal = false) :
    t = (s.appendBits d (field value width.toNat)).succeed := by
  obtain ⟨hrun, hd⟩ := hr
  change execApf value width s = .next t at h
  rw [execApf, onCommand_running hrun, withData_some hd] at h
  split at h
  · cases h; cases hf
  · cases h
    obtain ⟨_, heq⟩ | ⟨_, heq⟩ := appendPayload_cases s d (field value width.toNat)
    · exact heq
    · rw [heq] at hf; cases hf

/-- Settles O23. -/
theorem apfWritesOnlyItsCells : Obligations.ApfWritesOnlyItsCells := by
  intro s t d value width hr h hf
  have hd : s.data = some d := hr.2
  obtain rfl := exec_apf_eq_next hr h hf
  have hlen : (field value width.toNat).length = width.toNat := field_length value width.toNat
  constructor
  · have inside := s.memRead_appendBits_inside d (field value width.toNat)
    rwa [hlen] at inside
  · intro sp i hi
    by_cases hsp : sp = .w
    · obtain rfl := hsp
      exact State.memRead_appendBits_outside hd (by rw [hlen]; exact hi rfl)
    · exact State.memRead_congr (State.cells_appendBits hd _ hsp) i 1

/-! ### What the radio driver sees -/

/-- A fatal fault does not change what the radio driver sees: an OPEN packet, which is lost, is not shown to it (R49, R183). -/
theorem State.radioView_raiseFatal (s : State) (c : FatalCause) : (s.raiseFatal c).radioView = s.radioView := by
  by_cases ho : s.pktSt = .opened <;> simp [State.radioView, ho]

/-- The next state of the result `r`, if there is one, shows the radio driver what `s` does. -/
def State.KeepsView (s : State) (r : Result) : Prop :=
  ∀ t, r = .next t → t.radioView = s.radioView

section
variable {s : State}

theorem State.KeepsView.next {u : State} (hu : u.radioView = s.radioView) : s.KeepsView (.next u) := by
  rintro _ ⟨⟩; exact hu

theorem State.KeepsView.fault (f : Fault) : s.KeepsView (.fault f) := fun _ h => by cases h

theorem State.KeepsView.raiseFatal (c : FatalCause) : s.KeepsView (.next (s.raiseFatal c)) :=
  .next (s.radioView_raiseFatal c)

theorem State.KeepsView.onCommand {k : Result} (hk : s.KeepsView k) : s.KeepsView (onCommand s k) := by
  intro t h
  obtain ⟨_, rfl⟩ | ⟨_, h⟩ := onCommand_eq_next h
  · rfl
  · exact hk t h

theorem State.KeepsView.onMicro {k : Result} (hk : s.KeepsView k) : s.KeepsView (onMicro s k) := by
  intro t h
  obtain ⟨_, rfl⟩ | ⟨_, h⟩ := onMicro_eq_next h
  · rfl
  · exact hk t h

theorem State.KeepsView.withData {k : Buffers → Result} (hk : ∀ d, s.KeepsView (k d)) : s.KeepsView (withData s k) := by
  intro t h
  obtain ⟨d, _, h⟩ := withData_eq_next h
  exact hk d t h

theorem State.KeepsView.onWholeBytes {w : Bits} {k : Result} (hk : s.KeepsView k) : s.KeepsView (onWholeBytes w k) :=
  fun t h => hk t (onWholeBytes_eq_next h).2

theorem State.KeepsView.ite {p : Prop} [Decidable p] {k l : Result} (hk : p → s.KeepsView k) (hl : ¬p → s.KeepsView l) :
    s.KeepsView (if p then k else l) := by
  split
  next hp => exact hk hp
  next hp => exact hl hp

/-- A rule that raises a fatal fault where a check fails. -/
theorem State.KeepsView.check {p : Prop} [Decidable p] {c : FatalCause} {k : Result} (hk : s.KeepsView k) :
    s.KeepsView (if p then .next (s.raiseFatal c) else k) :=
  .ite (fun _ => .raiseFatal c) fun _ => hk

theorem State.KeepsView.appendPayload {u : State} (d : Buffers) (v : Bits) (hu : u.radioView = s.radioView) :
    s.KeepsView (.next (appendPayload u d v)) := by
  obtain ⟨_, heq⟩ | ⟨_, heq⟩ := appendPayload_cases u d v
  · rw [heq]; exact .next hu
  · rw [heq]; exact .next ((u.radioView_raiseFatal .overrun).trans hu)

/-- EMIT writes to an OPEN packet only, which the radio driver does not see. -/
theorem keepsView_execEmit : s.KeepsView (execEmit s) := by
  refine .onMicro (.withData fun d => .ite (fun _ => .fault _) fun hopen => ?_)
  have ho : s.pktSt = .opened := not_not.mp hopen
  cases s.pktBits with
  | none => exact .fault _
  | some q => exact .check (.next (by simp [State.radioView, ho]))

/-- FIN without an OPEN packet fails and leaves the packet as it is (R187). -/
theorem keepsView_execFin (ho : s.pktSt ≠ .opened) : s.KeepsView (execFin s) :=
  .onCommand (.ite (fun _ => .next rfl) fun hopen => absurd ho hopen)

/-- PKN, and FIN with an OPEN packet, are the only instructions that change what the radio driver sees. -/
theorem exec_keepsView {i : Instr} (hpkn : ∀ ch, i ≠ .pkn ch) (hfin : i = .fin → s.pktSt ≠ .opened) :
    s.KeepsView (exec i s) := by
  cases i with
  | clr => exact .onCommand (.withData fun _ => .next rfl)
  | pkn ch => exact absurd rfl (hpkn ch)
  | apf value width => exact .onCommand (.withData fun d => .check (.appendPayload d _ rfl))
  | txc c => exact .onCommand (.withData fun _ => .ite (fun _ => .next rfl) fun _ => .next rfl)
  | apt maxChars => exact .onCommand (.withData fun _ => .ite (fun _ => .next rfl) fun _ => .appendPayload _ _ rfl)
  | fin => exact keepsView_execFin (hfin rfl)
  | b2b => exact .onMicro (.withData fun _ => .onWholeBytes (.next rfl))
  | crc => exact .onMicro (.withData fun _ => .next rfl)
  | acrc => exact .onMicro (.withData fun _ => .check (.onWholeBytes (.next rfl)))
  | brev => exact .onMicro (.withData fun _ => .onWholeBytes (.next rfl))
  | stuf => exact .onMicro (.withData fun _ => .check (.next rfl))
  | wrap => exact .onMicro (.withData fun _ => .check (.next rfl))
  | nrzi => exact .onMicro (.withData fun _ => .next rfl)
  | emit => exact keepsView_execEmit

end

/-- Settles O45. -/
theorem readyFrameIsKept : Obligations.ReadyFrameIsKept := by
  intro i s t h hpkn hready
  have hnotOpen : s.pktSt ≠ .opened := by rw [hready]; nofun
  exact exec_keepsView hpkn (fun _ => hnotOpen) t h

end Sys2Proof.Machine

/-!
SUPPORT. Command words and instructions (spec/30_encoding.md). Encoding and decoding undo each other, and the rest goes through
these two facts: what a word decodes to is what it encodes, and a word that a row of R63 selects is the encoding of an instruction.
-/

namespace Sys2Proof

/-! ### Encoding and decoding -/

/-- The must-be-zero check of a row (R64 b). -/
theorem mustBeZero_eq_ok {op a : BitVec 8} {d : BitVec 32} {i j : Instr} :
    mustBeZero op a d i = .ok j ↔ a = 0 ∧ d = 0 ∧ i = j := by
  unfold mustBeZero
  split_ifs with ha hd
  · exact iff_of_false nofun fun h => ha h.1
  · exact iff_of_false nofun fun h => hd h.2.1
  · simp [not_not.1 ha, not_not.1 hd]

/-- The bits of `d` that must be zero in a TXC are zero exactly if `d` is its low byte extended (R63). -/
theorem and_highMask_eq_zero_iff (d : BitVec 32) : d &&& 0xFFFFFF00 = 0 ↔ (d.setWidth 8).setWidth 32 = d := by
  have mask : (0xFFFFFF00 : BitVec 32) = BitVec.allOnes 32 <<< 8 := by decide
  rw [mask, BitVec.eq_of_getLsbD_eq_iff, BitVec.eq_of_getLsbD_eq_iff]
  refine forall₂_congr fun i hi => ?_
  rw [BitVec.getLsbD_and, BitVec.getLsbD_shiftLeft, BitVec.getLsbD_allOnes, BitVec.getLsbD_setWidth,
    BitVec.getLsbD_setWidth, BitVec.ofNat_eq_ofNat, BitVec.getLsbD_zero]
  by_cases hlow : i < 8
  · simp [hi, hlow]
  · have hshift : i - 8 < 32 := by omega
    simp [hi, hlow, hshift, eq_comm (a := false)]

/-- A command word is decoded by its fields (R67). -/
theorem decode_commandWord (op a : BitVec 8) (d : BitVec 32) :
    decode (.command (commandWord op a d)) = decodeFields op a d := by
  simp [decode, decodeCommand]

/-- Decoding undoes encoding. -/
theorem decode_encode (i : Instr) : decode (encode i) = .ok i := by
  cases i with
  | clr | fin | b2b | crc | acrc | brev | stuf | wrap | nrzi | emit => rfl
  | pkn ch => exact decode_commandWord 2 ch 0
  | apf value width => exact decode_commandWord 3 width value
  | apt maxChars => exact decode_commandWord 5 maxChars 0
  | txc c =>
    have low : (c.setWidth 32).setWidth 8 = c := by simp
    have high : c.setWidth 32 &&& 0xFFFFFF00 = 0 := (and_highMask_eq_zero_iff _).2 (by rw [low])
    exact (decode_commandWord 4 0 _).trans (mustBeZero_eq_ok.2 ⟨rfl, high, congrArg Instr.txc low⟩)

/-- The host may issue exactly the instructions whose encoding is a command word (R61). -/
theorem issuable_iff_encode_command (i : Instr) : i.issuable = true ↔ ∃ w, encode i = .command w := by
  cases i with
  | clr | pkn | apf | txc | apt | fin => exact iff_of_true rfl ⟨_, rfl⟩
  | b2b | crc | acrc | brev | stuf | wrap | nrzi | emit => exact iff_of_false nofun nofun

/-- Settles O1. -/
theorem decodeOfEncode : Obligations.DecodeOfEncode :=
  fun i => ⟨decode_encode i, issuable_iff_encode_command i⟩

/-- Fields that decode are those of the instruction's encoding, row by row of R63. -/
theorem encode_of_decodeFields {op a : BitVec 8} {d : BitVec 32} {i : Instr} (h : decodeFields op a d = .ok i) :
    encode i = .command (commandWord op a d) := by
  unfold decodeFields at h
  split_ifs at h with clr pkn apf txc apt fin
  · obtain ⟨rfl, rfl, rfl⟩ := mustBeZero_eq_ok.1 h
    rw [clr, encode]
  · obtain ⟨_, rfl, rfl⟩ := mustBeZero_eq_ok.1 h
    rw [pkn, encode]
  · cases h
    rw [apf, encode]
  · obtain ⟨rfl, high, rfl⟩ := mustBeZero_eq_ok.1 h
    rw [txc, encode, (and_highMask_eq_zero_iff d).1 high]
  · obtain ⟨_, rfl, rfl⟩ := mustBeZero_eq_ok.1 h
    rw [apt, encode]
  · obtain ⟨rfl, rfl, rfl⟩ := mustBeZero_eq_ok.1 h
    rw [fin, encode]

/-- A code that decodes is that of the micro-operation (R66). -/
theorem encode_of_decodeMicro {c : BitVec 4} {i : Instr} (h : decodeMicro c = .ok i) : encode i = .micro c := by
  unfold decodeMicro at h
  split at h
  case h_9 => cases h
  all_goals
    next code =>
      cases h
      exact congrArg CodeWord.micro (BitVec.eq_of_toNat_eq code.symm)

/-- Encoding undoes decoding. -/
theorem encode_of_decode {c : CodeWord} {i : Instr} (h : decode c = .ok i) : encode i = c := by
  cases c with
  | command w =>
    rw [← commandWord_fields w] at h ⊢
    exact encode_of_decodeFields ((decode_commandWord ..).symm.trans h)
  | micro c => exact encode_of_decodeMicro h

/-- Settles O2. -/
theorem encodeOfDecode : Obligations.EncodeOfDecode :=
  fun _ _ h => encode_of_decode h

/-! ### The match and mask table -/

/-- Every row compares the whole of `op` (R63). -/
theorem opField_of_selects {r : OpRow} (hr : r ∈ opcodeRows) {w : BitVec 48} (h : r.selects w = true) :
    opField r.pattern = opField w := by
  have whole : ∀ r ∈ opcodeRows, opField r.mask = BitVec.allOnes 8 := by decide
  rw [← commandWord_fields w, selects_commandWord, whole r hr, BitVec.and_allOnes] at h
  exact h.1.symm

/-- At most one row selects a word: the rows differ in `op` (R63). -/
theorem selecting_rows_le_one (w : BitVec 48) : (opcodeRows.filter fun r => r.selects w).length ≤ 1 := by
  have distinct : (opcodeRows.map fun r => opField r.pattern).Nodup := by decide
  calc (opcodeRows.filter fun r => r.selects w).length
      = opcodeRows.countP fun r => r.selects w := List.countP_eq_length_filter.symm
    _ ≤ opcodeRows.countP fun r => opField r.pattern == opField w :=
        List.countP_mono_left fun r hr h => beq_iff_eq.2 (opField_of_selects hr h)
    _ = (opcodeRows.map fun r => opField r.pattern).count (opField w) := by
        rw [List.count, List.countP_map]; rfl
    _ ≤ 1 := List.nodup_iff_count_le_one.1 distinct _

/-- A word that a row selects is the encoding of an instruction (R63, R64). -/
theorem exists_encode_of_selects {r : OpRow} (hr : r ∈ opcodeRows) {op a : BitVec 8} {d : BitVec 32}
    (h : r.selects (commandWord op a d) = true) : ∃ i, encode i = .command (commandWord op a d) := by
  have byte (x : BitVec 8) : x &&& 255#8 = x := BitVec.and_allOnes
  have word (x : BitVec 32) : x &&& 4294967295#32 = x := BitVec.and_allOnes
  rw [selects_commandWord] at h
  simp only [opcodeRows, List.mem_cons, List.not_mem_nil, or_false] at hr
  obtain rfl | rfl | rfl | rfl | rfl | rfl := hr
  all_goals simp only [opField, aField, dField, BitVec.ofNat_eq_ofNat, BitVec.reduceExtractLsb', BitVec.and_zero, byte, word,
    and_true, true_and] at h
  · obtain ⟨rfl, rfl, rfl⟩ := h
    exact ⟨.clr, rfl⟩
  · obtain ⟨rfl, rfl⟩ := h
    exact ⟨.pkn a, rfl⟩
  · obtain rfl := h
    exact ⟨.apf d a, rfl⟩
  · obtain ⟨rfl, rfl, high⟩ := h
    exact ⟨.txc (d.setWidth 8), by rw [encode, (and_highMask_eq_zero_iff d).1 high]; rfl⟩
  · obtain ⟨rfl, rfl⟩ := h
    exact ⟨.apt a, rfl⟩
  · obtain ⟨rfl, rfl, rfl⟩ := h
    exact ⟨.fin, rfl⟩

/-- The encoding of every instruction lies in the row of the instruction (R61, R63, R66). -/
theorem encode_matches_row (i : Instr) : Laws.RowMatch.Statement i := by
  cases i with
  | clr => exact Laws.RowMatch.clr
  | pkn ch => exact Laws.RowMatch.pkn ch
  | apf value width => exact Laws.RowMatch.apf value width
  | txc c => exact Laws.RowMatch.txc c
  | apt maxChars => exact Laws.RowMatch.apt maxChars
  | fin => exact Laws.RowMatch.fin
  | b2b => exact Laws.RowMatch.b2b
  | crc => exact Laws.RowMatch.crc
  | acrc => exact Laws.RowMatch.acrc
  | brev => exact Laws.RowMatch.brev
  | stuf => exact Laws.RowMatch.stuf
  | wrap => exact Laws.RowMatch.wrap
  | nrzi => exact Laws.RowMatch.nrzi
  | emit => exact Laws.RowMatch.emit

/-- The row of an instruction selects the command word it is encoded as. -/
theorem row_selects_of_encode {i : Instr} {w : BitVec 48} (h : encode i = .command w) :
    ∃ r, i.row = some r ∧ r.selects w = true := by
  obtain ⟨_, w', r, henc, hrow, hsel⟩ | ⟨_, c, henc, _⟩ := encode_matches_row i
  · cases henc.symm.trans h
    exact ⟨r, hrow, hsel⟩
  · cases henc.symm.trans h

theorem mem_opcodeRows_of_row {i : Instr} {r : OpRow} (h : i.row = some r) : r ∈ opcodeRows := by
  cases i with
  | clr | pkn | apf | txc | apt | fin => exact List.mem_of_getElem? h
  | b2b | crc | acrc | brev | stuf | wrap | nrzi | emit => cases h

/-- Settles O3. -/
theorem legalWordsSelectOneRow : Obligations.LegalWordsSelectOneRow := by
  intro w
  have own_row (i : Instr) (h : decode (.command w) = .ok i) : ∃ r, i.row = some r ∧ r.selects w = true :=
    row_selects_of_encode (encode_of_decode h)
  refine ⟨selecting_rows_le_one w, ⟨?_, ?_⟩, own_row⟩
  · rintro ⟨i, h⟩
    obtain ⟨r, hrow, hsel⟩ := own_row i h
    exact ⟨r, mem_opcodeRows_of_row hrow, hsel⟩
  · rintro ⟨r, hr, hsel⟩
    rw [← commandWord_fields w] at hsel ⊢
    obtain ⟨i, henc⟩ := exists_encode_of_selects hr hsel
    exact ⟨i, henc ▸ decode_encode i⟩

/-- Settles O4. -/
theorem writtenWordsDecode : Obligations.WrittenWordsDecode :=
  ⟨rfl, rfl, rfl, rfl, rfl, rfl, rfl, rfl, rfl, rfl, rfl, rfl, rfl, rfl⟩

end Sys2Proof

namespace Sys2Proof.Machine

/-- A running block between commands executes the command the port presents (R67, R80). -/
theorem step_command {s : State} {w : BitVec 48} {rest : List Input} {i : Instr} (hf : s.fatal = false)
    (hi : s.stage = .idle) (hin : s.input = .command w :: rest) (hd : decode (.command w) = .ok i) :
    step s = exec i { s with input := rest } := by
  have ha : s.action = .command i := by
    simp only [action_idle hi, portAction, hin, hf, hd, Bool.false_eq_true, ↓reduceIte]
  simp only [step, ha, State.takeInput, hin, List.tail_cons]

/-- Settles O5. -/
theorem stepRunsPresentedCommand : Obligations.StepRunsPresentedCommand :=
  fun _ _ _ _ => step_command

end Sys2Proof.Machine

/-!
SUPPORT. The pseudo-instruction TEXT (spec/30_encoding.md R69). What TXC and APT answer on a running block, case by case; then
the state after the TXC commands of a string (`State.withStaged`), by induction on the string from its end; then the APT.
-/

namespace Sys2Proof.Machine

/-- A run of `m + n` steps is a run of `m` and then one of `n`. -/
theorem run_add (m n : Nat) (s : State) : run (m + n) s = andThen (run m s) (run n) := by
  induction m generalizing s with
  | zero => rw [Nat.zero_add, run_zero, andThen_next]
  | succ m ih =>
    rw [Nat.succ_add, run_succ, run_succ, andThen_assoc]
    exact andThen_congr fun t _ => ih t

/-! ### TXC and APT on a running block -/

section
variable {s : State} {d : Buffers}

theorem exec_txc_of_room {c : BitVec 8} (hr : s.Running d) (hroom : d.txt.length ≠ s.cfg.txtCap) :
    exec (.txc c) s = .next { s with data := some { d with txt := d.txt ++ [c] } }.succeed := by
  change execTxc c s = _
  rw [execTxc, onCommand_running hr.1, withData_some hr.2, if_neg hroom, writeCells_at_length]

theorem exec_txc_of_full {c : BitVec 8} (hr : s.Running d) (hfull : d.txt.length = s.cfg.txtCap) :
    exec (.txc c) s = .next ({ s with tovf := true }.fail .textLen) := by
  change execTxc c s = _
  rw [execTxc, onCommand_running hr.1, withData_some hr.2, if_pos hfull]

/-- `s` with the staged string consumed, as APT leaves it in every outcome (R89). -/
def State.consumeText (s : State) (d : Buffers) : State :=
  { s with data := some { d with txt := [] }, tovf := false }

theorem exec_apt_of_tooLong {n : BitVec 8} (hr : s.Running d) (hlong : s.tovf = true ∨ n.toNat < d.txt.length) :
    exec (.apt n) s = .next ((s.consumeText d).fail .textLen) := by
  change execApt n s = _
  rw [execApt, onCommand_running hr.1, withData_some hr.2]
  exact if_pos hlong

/-- A string that is not too long is appended as one field, where there is room. -/
theorem exec_apt_of_staged {n : BitVec 8} (hr : s.Running d) (htovf : s.tovf = false) (hlen : d.txt.length ≤ n.toNat) :
    exec (.apt n) s = .next (appendPayload (s.consumeText d) { d with txt := [] } (text d.txt n.toNat)) := by
  change execApt n s = _
  rw [execApt, onCommand_running hr.1, withData_some hr.2]
  exact if_neg (by simp [htovf, hlen])

end

/-! ### The words of TEXT -/

/-- The command word of TXC `c`. -/
def txcWord (c : Byte) : BitVec 48 := commandWord 0x04 0 (c.setWidth 32)

/-- The command word of APT `n`. -/
def aptWord (n : BitVec 8) : BitVec 48 := commandWord 0x05 n 0

theorem decode_txcWord (c : Byte) : decode (.command (txcWord c)) = .ok (.txc c) := decode_encode (.txc c)

theorem decode_aptWord (n : BitVec 8) : decode (.command (aptWord n)) = .ok (.apt n) := decode_encode (.apt n)

/-- TEXT with a length operand in range: the word of a TXC for each character, then that of the APT. -/
theorem assembleWords_text {chars : List Byte} {n : Nat} {words : List (BitVec 48)}
    (h : assembleWords (.text chars n) = some words) :
    n < 256 ∧ words = chars.map txcWord ++ [aptWord (BitVec.ofNat 8 n)] := by
  by_cases hn : n < 256
  · refine ⟨hn, ?_⟩
    simp only [assembleWords, assemble, asmText, asmByte, hn, ↓reduceIte, Option.map_some, Option.some.injEq] at h
    rw [← h, List.filterMap_append, List.filterMap_map]
    exact congrArg (· ++ _) (congrFun List.filterMap_eq_map chars)
  · simp [assembleWords, assemble, asmText, asmByte, hn] at h

/-! ### The TXC commands -/

/-- The responses out once `k` TXC commands ran on `s` with an empty staging buffer: the first ones fit, the others fail (R86). -/
def State.outAfterTxcs (s : State) (k : Nat) : List Response :=
  s.out ++ List.replicate (min k s.cfg.txtCap) ⟨true, .ok⟩ ++ List.replicate (k - s.cfg.txtCap) ⟨false, .textLen⟩

theorem State.outAfterTxcs_succ_of_room {s : State} {k : Nat} (h : k < s.cfg.txtCap) :
    s.outAfterTxcs (k + 1) = s.outAfterTxcs k ++ [⟨true, .ok⟩] := by
  simp only [State.outAfterTxcs, Nat.min_eq_left h.le, Nat.min_eq_left (Nat.succ_le_of_lt h), Nat.sub_eq_zero_of_le h.le,
    Nat.sub_eq_zero_of_le (Nat.succ_le_of_lt h), List.replicate_zero, List.append_nil, List.replicate_succ', List.append_assoc]

theorem State.outAfterTxcs_succ_of_full {s : State} {k : Nat} (h : s.cfg.txtCap ≤ k) :
    s.outAfterTxcs (k + 1) = s.outAfterTxcs k ++ [⟨false, .textLen⟩] := by
  simp only [State.outAfterTxcs, Nat.min_eq_right h, Nat.min_eq_right (h.trans k.le_succ), Nat.succ_sub h,
    List.replicate_succ', List.append_assoc]

/-- `s` with `k` TXC commands answered, `rest` still to be presented, and `LASTERR` at `e`. -/
def State.answeredTxcs (s : State) (k : Nat) (e : Err) (rest : List Input) : State :=
  { s with lastErr := e, input := rest, out := s.outAfterTxcs k }

/-- `s` after the TXC commands of `chars`: as many characters as fit are staged, and `TOVF` says whether there were more. -/
def State.withStaged (s : State) (d : Buffers) (chars : List Byte) (e : Err) (rest : List Input) : State :=
  { s.answeredTxcs chars.length e rest with
    data := some { d with txt := chars.take s.cfg.txtCap }
    tovf := decide (s.cfg.txtCap < chars.length) }

section
variable {s : State} {d : Buffers}

theorem State.withStaged_nil (hr : s.Running d) (htxt : d.txt = []) (htovf : s.tovf = false) :
    s.withStaged d [] s.lastErr s.input = s := by
  obtain ⟨_, hd⟩ := hr
  have hdata : some { d with txt := [] } = s.data := by rw [hd, ← htxt]
  simp [State.withStaged, State.answeredTxcs, State.outAfterTxcs, hdata, ← htovf]

theorem State.running_withStaged (hf : s.fatal = false) (chars : List Byte) (e : Err) (rest : List Input) :
    (s.withStaged d chars e rest).Running { d with txt := chars.take s.cfg.txtCap } :=
  ⟨hf, rfl⟩

/-- The next command of the string executes on what was staged before it. -/
theorem step_withStaged {w : BitVec 48} {i : Instr} (hf : s.fatal = false) (hi : s.stage = .idle)
    (hd : decode (.command w) = .ok i) (chars : List Byte) (e : Err) (rest : List Input) :
    step (s.withStaged d chars e (.command w :: rest)) = exec i (s.withStaged d chars e rest) :=
  step_command (s := s.withStaged d chars e (.command w :: rest)) hf hi rfl hd

/-- One more TXC stages its character, or finds the buffer full (R86). -/
theorem step_txc_withStaged (hf : s.fatal = false) (hi : s.stage = .idle) (chars : List Byte) (c : Byte) (e : Err)
    (rest : List Input) :
    ∃ e', step (s.withStaged d chars e (.command (txcWord c) :: rest)) = .next (s.withStaged d (chars ++ [c]) e' rest) := by
  rw [step_withStaged hf hi (decode_txcWord c)]
  have hr := s.running_withStaged (d := d) hf chars e rest
  by_cases hroom : chars.length < s.cfg.txtCap
  · refine ⟨.ok, ?_⟩
    have fits : chars.take s.cfg.txtCap = chars := List.take_of_length_le hroom.le
    have fits' : (chars ++ [c]).take s.cfg.txtCap = chars ++ [c] := List.take_of_length_le (by simpa using hroom)
    rw [exec_txc_of_room hr (by rw [fits]; exact hroom.ne)]
    simp [State.withStaged, State.answeredTxcs, State.succeed, State.respond, fits, fits', hroom.not_ge, hroom.not_gt,
      State.outAfterTxcs_succ_of_room hroom]
  · refine ⟨.textLen, ?_⟩
    have full : s.cfg.txtCap ≤ chars.length := Nat.le_of_not_lt hroom
    rw [exec_txc_of_full hr (List.length_take_of_le full)]
    simp [State.withStaged, State.answeredTxcs, State.fail, State.respond, List.take_append_of_le_length full, full,
      State.outAfterTxcs_succ_of_full full]

/-- The TXC commands of a string, by induction on the string from its end. -/
theorem run_txcs (hr : s.Running d) (hi : s.stage = .idle) (htxt : d.txt = []) (htovf : s.tovf = false)
    (chars : List Byte) (rest : List Input) (hin : s.input = (chars.map txcWord).map Input.command ++ rest) :
    ∃ e, run chars.length s = .next (s.withStaged d chars e rest) := by
  induction chars using List.reverseRecOn generalizing rest with
  | nil =>
    obtain rfl : s.input = rest := hin
    exact ⟨s.lastErr, by rw [State.withStaged_nil hr htxt htovf]; rfl⟩
  | append_singleton chars c ih =>
    obtain ⟨e, hrun⟩ := ih (.command (txcWord c) :: rest) (by simpa using hin)
    obtain ⟨e', hstep⟩ := step_txc_withStaged (d := d) hr.1 hi chars c e rest
    refine ⟨e', ?_⟩
    rw [List.length_append, List.length_singleton, run_add, hrun, andThen_next, run_one, hstep]

/-! ### The APT -/

/-- With the staged characters consumed, only the responses of their TXC commands are left of them. -/
theorem State.consumeText_withStaged (hr : s.Running d) (htxt : d.txt = []) (htovf : s.tovf = false) (chars txt : List Byte)
    (e : Err) (rest : List Input) :
    (s.withStaged d chars e rest).consumeText { d with txt := txt } = s.answeredTxcs chars.length e rest := by
  have hdata : s.data = some { d with txt := [] } := by rw [hr.2, ← htxt]
  simp only [State.consumeText, State.withStaged, State.answeredTxcs, hdata, htovf]

/-- A string longer than `n` or than the staging buffer fails (R89). -/
theorem exec_apt_withStaged_of_tooLong {chars : List Byte} {n : BitVec 8} (hr : s.Running d) (htxt : d.txt = [])
    (htovf : s.tovf = false) (hlong : n.toNat < chars.length ∨ s.cfg.txtCap < chars.length) (e : Err) (rest : List Input) :
    exec (.apt n) (s.withStaged d chars e rest) = .next ((s.answeredTxcs chars.length e rest).fail .textLen) := by
  have hlong' : (s.withStaged d chars e rest).tovf = true ∨ n.toNat < (chars.take s.cfg.txtCap).length := by
    simp only [State.withStaged, decide_eq_true_eq, List.length_take]
    omega
  rw [exec_apt_of_tooLong (State.running_withStaged hr.1 chars e rest) hlong',
    State.consumeText_withStaged hr htxt htovf]

/-- A string that is not too long is appended to the payload as one field, where there is room (R89). -/
theorem exec_apt_withStaged_of_staged {chars : List Byte} {n : BitVec 8} (hr : s.Running d) (htxt : d.txt = [])
    (htovf : s.tovf = false) (hlen : chars.length ≤ n.toNat) (hcap : chars.length ≤ s.cfg.txtCap) (e : Err)
    (rest : List Input) :
    exec (.apt n) (s.withStaged d chars e rest) =
      .next (appendPayload (s.answeredTxcs chars.length e rest) d (text chars n.toNat)) := by
  have hr' := s.running_withStaged (d := d) hr.1 chars e rest
  rw [List.take_of_length_le hcap] at hr'
  rw [exec_apt_of_staged hr' (decide_eq_false hcap.not_gt) hlen, State.consumeText_withStaged hr htxt htovf, ← htxt]

end

/-- Settles O27. -/
theorem textPseudoInstruction : Obligations.TextPseudoInstruction := by
  intro s d chars n rest words hr hi htxt htovf hwords hin
  obtain ⟨hn, rfl⟩ := assembleWords_text hwords
  have hn' : (BitVec.ofNat 8 n).toNat = n := Nat.mod_eq_of_lt hn
  have hin' : s.input = (chars.map txcWord).map Input.command ++ .command (aptWord (BitVec.ofNat 8 n)) :: rest := by
    simpa using hin
  obtain ⟨e, htxcs⟩ := run_txcs hr hi htxt htovf chars _ hin'
  have hrun : run (chars.length + 1) s = exec (.apt (BitVec.ofNat 8 n)) (s.withStaged d chars e rest) := by
    rw [run_add, htxcs, andThen_next, run_one, step_withStaged hr.1 hi (decode_aptWord _)]
  refine ⟨by simp, hrun.trans ?_⟩
  by_cases hlong : n < chars.length ∨ s.cfg.txtCap < chars.length
  · rw [if_pos hlong, exec_apt_withStaged_of_tooLong hr htxt htovf (by rwa [hn'])]
    rfl
  · obtain ⟨hlen, hcap⟩ := not_or.1 hlong
    have hbits : (text chars n).length = 6 * n := text_length (Nat.le_of_not_lt hlen)
    rw [if_neg hlong, exec_apt_withStaged_of_staged hr htxt htovf (by omega) (by omega), hn', ← hbits]
    obtain ⟨hfit, happend⟩ | ⟨hover, happend⟩ :=
      appendPayload_cases (s.answeredTxcs chars.length e rest) d (text chars n)
    · have hroom : ¬ s.cfg.wcap < d.w.length + (text chars n).length := Nat.not_lt_of_le hfit
      rw [happend, if_neg hroom]
      rfl
    · have hover : s.cfg.wcap < d.w.length + (text chars n).length := hover
      rw [happend, if_pos hover]
      rfl

end Sys2Proof.Machine

/-!
SUPPORT. What FIELD and TEXT are as bit sequences, and what the packing commands answer (spec/40_packing.md). Both commands that append to
the payload go through the two outcomes of `appendPayload`; TEXT is read as the fields of one list of six-bit codes, the padding included.
-/

namespace Sys2Proof.Machine

/-! ### FIELD -/

/-- Element `i` of `FIELD(value, width)` is bit `width-1-i`, for a value of any size (R84). -/
theorem field_getElem? {n : Nat} (value : BitVec n) {width i : Nat} (h : i < width) :
    (field value width)[i]? = some (value.getLsbD (width - 1 - i)) := by
  induction width generalizing i with
  | zero => omega
  | succ width ih =>
    cases i with
    | zero => rfl
    | succ i =>
      have hbit : width + 1 - 1 - (i + 1) = width - 1 - i := by omega
      rw [field, List.getElem?_cons_succ, ih (by omega), hbit]

/-- Settles O21. -/
theorem fieldIsMostSignificantFirst : Obligations.FieldIsMostSignificantFirst :=
  fun value width _ _ => ⟨field_length value width, fun _ => field_getElem? value⟩

/-! ### TEXT -/

/-- `SIXBIT` is reduction modulo 64, by the subtraction for codes from 64 to 127 and by the cut to six bits for the rest (R87). -/
theorem sixbit_toNat (c : Byte) : (sixbit c).toNat = c.toNat % 64 := by
  have hc := c.isLt
  have h64 : (64 : Byte).toNat = 64 := rfl
  rw [sixbit, BitVec.toNat_setWidth]
  split
  · rw [BitVec.toNat_sub, h64]
    omega
  · rfl

/-- The fields of a list of six-bit codes, in order. -/
def codeBits (codes : List (BitVec 6)) : Bits := codes.flatMap fun c => field c 6

/-- The codes of TEXT: those of the characters, then 0 up to `maxChars` (R88). -/
def textCodes (chars : List Byte) (maxChars : Nat) : List (BitVec 6) :=
  chars.map sixbit ++ List.replicate (maxChars - chars.length) 0

theorem text_eq_codeBits (chars : List Byte) (maxChars : Nat) : text chars maxChars = codeBits (textCodes chars maxChars) := by
  simp only [text, textBits, codeBits, textCodes, List.flatMap_append, List.flatMap_map, List.flatMap_replicate]

/-- The six bits from `6*k` on are the field of code `k`. -/
theorem codeBits_slice {codes : List (BitVec 6)} {k : Nat} {c : BitVec 6} (h : codes[k]? = some c) :
    ((codeBits codes).drop (6 * k)).take 6 = field c 6 := by
  induction codes generalizing k with
  | nil => cases h
  | cons c' codes ih =>
    have hlen : (field c' 6).length = 6 := field_length c' 6
    have hcons : codeBits (c' :: codes) = field c' 6 ++ codeBits codes := List.flatMap_cons
    rw [hcons]
    cases k with
    | zero =>
      obtain rfl : c' = c := by simpa using h
      exact List.take_left' hlen
    | succ k =>
      rw [Nat.mul_succ, Nat.add_comm, ← List.drop_drop, List.drop_left' hlen]
      exact ih (by simpa using h)

/-- Code `k` of TEXT is that of character `k`. -/
theorem textCodes_of_char {chars : List Byte} {k : Nat} {c : Byte} (maxChars : Nat) (h : chars[k]? = some c) :
    (textCodes chars maxChars)[k]? = some (sixbit c) := by
  obtain ⟨hk, _⟩ := List.getElem?_eq_some_iff.1 h
  rw [textCodes, List.getElem?_append_left (by simpa using hk), List.getElem?_map, h, Option.map_some]

/-- Past the end of the string the codes of TEXT are 0. -/
theorem textCodes_of_pad {chars : List Byte} {k maxChars : Nat} (h : chars[k]? = none) (hk : k < maxChars) :
    (textCodes chars maxChars)[k]? = some 0 := by
  have hlen : chars.length ≤ k := List.getElem?_eq_none_iff.1 h
  rw [textCodes, List.getElem?_append_right (by simpa using hlen), List.getElem?_replicate, List.length_map,
    if_pos (by omega)]

/-- Settles O25. -/
theorem textFieldBits : Obligations.TextFieldBits := by
  refine ⟨sixbit_toNat, fun chars maxChars hlen => ⟨text_length hlen, fun k hk => ?_⟩⟩
  rw [text_eq_codeBits]
  cases hc : chars[k]? with
  | some c => exact codeBits_slice (textCodes_of_char maxChars hc)
  | none => exact codeBits_slice (textCodes_of_pad hc hk)

/-! ### The commands on a running block -/

section
variable {s : State} {d : Buffers}

/-- Bits that fit are appended (R85, R89). -/
theorem appendPayload_of_room {v : Bits} (h : d.w.length + v.length ≤ s.cfg.wcap) :
    appendPayload s d v = (s.appendBits d v).succeed := by
  obtain ⟨_, heq⟩ | ⟨hover, _⟩ := appendPayload_cases s d v
  · exact heq
  · omega

/-- Bits that do not fit raise `F_OVERRUN` (R189). -/
theorem appendPayload_of_overrun {v : Bits} (h : s.cfg.wcap < d.w.length + v.length) :
    appendPayload s d v = s.raiseFatal .overrun := by
  obtain ⟨hfit, _⟩ | ⟨_, heq⟩ := appendPayload_cases s d v
  · omega
  · exact heq

theorem exec_apf_of_legal {value : BitVec 32} {width : BitVec 8} (hr : s.Running d) (h1 : 1 ≤ width.toNat)
    (h32 : width.toNat ≤ 32) :
    exec (.apf value width) s = .next (appendPayload s d (field value width.toNat)) := by
  change execApf value width s = _
  rw [execApf, onCommand_running hr.1, withData_some hr.2, if_neg (by omega)]

theorem exec_apf_of_illegal {value : BitVec 32} {width : BitVec 8} (hr : s.Running d)
    (h : width.toNat < 1 ∨ 32 < width.toNat) :
    exec (.apf value width) s = .next (s.raiseFatal .width) := by
  change execApf value width s = _
  rw [execApf, onCommand_running hr.1, withData_some hr.2]
  exact if_pos h

end

/-- Settles O19. -/
theorem clrEmptiesPayload : Obligations.ClrEmptiesPayload := by
  intro s d hr
  change execClr s = _
  rw [execClr, onCommand_running hr.1, withData_some hr.2]
  rfl

/-- Settles O20. -/
theorem pknOpensPacket : Obligations.PknOpensPacket := by
  intro s ch hf
  change execPkn ch s = _
  rw [execPkn, onCommand_running hf]
  rfl

/-- Settles O22. -/
theorem apfAppendsFieldOrFaults : Obligations.ApfAppendsFieldOrFaults := by
  intro s d value width hr
  have hlen : (field value width.toNat).length = width.toNat := field_length value width.toNat
  refine ⟨fun h1 h32 hfit => ?_, exec_apf_of_illegal hr, fun h1 h32 hover => ?_⟩
  · rw [exec_apf_of_legal hr h1 h32, appendPayload_of_room (by rwa [hlen])]
    rfl
  · rw [exec_apf_of_legal hr h1 h32, appendPayload_of_overrun (by rwa [hlen])]

/-- Settles O24. -/
theorem txcStagesCharacterOrFails : Obligations.TxcStagesCharacterOrFails :=
  fun _ _ _ hr => ⟨exec_txc_of_room hr, exec_txc_of_full hr⟩

/-- Settles O26. -/
theorem aptAppendsTextOrFails : Obligations.AptAppendsTextOrFails := by
  intro s d maxChars hr
  refine ⟨fun htovf hlen hfit => ?_, exec_apt_of_tooLong hr, fun htovf hlen hover => ?_⟩
  · have hbits : (text d.txt maxChars.toNat).length = 6 * maxChars.toNat := text_length hlen
    rw [exec_apt_of_staged hr htovf hlen, appendPayload_of_room (by rw [hbits]; exact hfit)]
    rfl
  · have hbits : (text d.txt maxChars.toNat).length = 6 * maxChars.toNat := text_length hlen
    rw [exec_apt_of_staged hr htovf hlen, appendPayload_of_overrun (by rw [hbits]; exact hover)]
    rfl

end Sys2Proof.Machine

/-!
SUPPORT. Un-framing a frame (spec/45_properties.md R165, R166). Each part of UNFRAME undoes its part of FRAME: NRZI_DEC reads the bits back
up to the pad; UNWRAP finds the closing flag and no earlier one, because stuffed data has no six 1 bits in a row; UNSTUF follows the
same run counter as STUF; BREV is its own inverse; STRIPCRC finds the trailer ACRC appended, which it computes again from the payload.
-/

namespace Sys2Proof.Machine

/-! ### UNFIELD and FIELD -/

/-- Reading the bits of `s` after the value `n`. -/
theorem foldl_bits_eq (n : Nat) (s : Bits) : s.foldl (fun n b => 2 * n + b.toNat) n = 2 ^ s.length * n + bitsValue s := by
  induction s generalizing n with
  | nil => simp [bitsValue]
  | cons b s ih =>
    have hb : bitsValue (b :: s) = 2 ^ s.length * (2 * 0 + b.toNat) + bitsValue s := ih _
    rw [List.foldl_cons, ih, hb, List.length_cons, pow_succ]
    ring

/-- The first bit of a sequence is its most significant one. -/
theorem bitsValue_cons (b : Bool) (s : Bits) : bitsValue (b :: s) = 2 ^ s.length * b.toNat + bitsValue s := by
  simpa [bitsValue] using foldl_bits_eq b.toNat s

/-- The value of a field is the value it was made of, cut to its width. -/
theorem bitsValue_field {n : Nat} (value : BitVec n) (width : Nat) : bitsValue (field value width) = value.toNat % 2 ^ width := by
  induction width with
  | zero => simp [field, bitsValue, Nat.mod_one]
  | succ width ih =>
    rw [field, bitsValue_cons, field_length, ih, Nat.mod_pow_succ, ← Nat.toNat_testBit, BitVec.testBit_toNat, Nat.add_comm]

theorem unfield_append (before v after : Bits) : unfield (before ++ v ++ after) before.length v.length = bitsValue v := by
  simp [unfield]

/-! ### NRZI_DEC -/

/-- Comparing neighbouring levels reads each input bit back, whatever levels follow. -/
theorem nrziDec_nrziFrom (lvl : Bool) (s t : Bits) :
    nrziDec (lvl :: nrziFrom lvl s ++ t) = s ++ nrziDec (levelAfter lvl s :: t) := by
  induction s generalizing lvl with
  | nil => rfl
  | cons b s ih =>
    have hbit : (lvl == nextLevel lvl b) = b := by cases lvl <;> cases b <;> rfl
    calc nrziDec (lvl :: nrziFrom lvl (b :: s) ++ t)
      _ = (lvl == nextLevel lvl b) :: nrziDec (nextLevel lvl b :: nrziFrom (nextLevel lvl b) s ++ t) := rfl
      _ = b :: (s ++ nrziDec (levelAfter lvl (b :: s) :: t)) := by rw [hbit, ih]; rfl

/-! ### UNWRAP -/

/-- Ones at the start of a sequence end at its first 0. -/
theorem ones_prefix_of_append {n : Nat} {s t : Bits} (h : List.replicate n true <+: s ++ false :: t) :
    List.replicate n true <+: s := by
  induction n generalizing s with
  | zero => exact List.nil_prefix
  | succ n ih =>
    cases s with
    | nil => cases (List.cons_prefix_cons.1 h).1
    | cons b s =>
      obtain ⟨hb, hs⟩ := List.cons_prefix_cons.1 h
      exact List.cons_prefix_cons.2 ⟨hb, ih hs⟩

/-- Six 1 bits in a row start at the first bit or later. -/
theorem hasSixOnes_cons {b : Bool} {s : Bits} :
    hasSixOnes (b :: s) ↔ List.replicate 6 true <+: b :: s ∨ hasSixOnes s :=
  List.infix_cons_iff

/-- The first flag after a sequence without six 1 bits in a row is the one that ends it. -/
theorem upToFlag_append {s : Bits} (hs : ¬hasSixOnes s) (t : Bits) : upToFlag (s ++ (flag ++ t)) = some s := by
  induction s with
  | nil =>
    have hflag : flag.isPrefixOf (flag ++ t) = true := List.isPrefixOf_iff_prefix.2 (List.prefix_append flag t)
    exact if_pos hflag
  | cons b s ih =>
    have htail : ¬hasSixOnes s := fun h => hs (hasSixOnes_cons.2 (.inr h))
    have hnot : ¬flag.isPrefixOf (b :: (s ++ (flag ++ t))) = true := by
      intro h
      obtain ⟨_, hseven⟩ := List.cons_prefix_cons.1 (List.isPrefixOf_iff_prefix.1 h)
      have hsix : List.replicate 6 true <+: s ++ (flag ++ t) := (List.prefix_append _ [false]).trans hseven
      exact htail (ones_prefix_of_append hsix).isInfix
    rw [List.cons_append, upToFlag, if_neg hnot, ih htail]
    rfl

/-- UNWRAP undoes WRAP, with anything after it, on data without six 1 bits in a row. -/
theorem unwrap_wrap (cfg : Cfg) {s : Bits} (hs : ¬hasSixOnes s) (t : Bits) : unwrap (wrap cfg s ++ t) = some s := by
  have hdata : (wrap cfg s ++ t).drop 35 = s ++ (flag ++ (cfg.rampDown.bits ++ t)) := by
    simp only [wrap, List.append_assoc]
    exact List.drop_left' (preamble_length cfg)
  have hopen : ((wrap cfg s ++ t).drop 27).take 8 = flag := by
    simp only [wrap, preamble, List.append_assoc]
    rfl
  rw [unwrap, if_pos hopen, hdata, upToFlag_append hs]

/-! ### UNSTUF -/

/-- A stuffed sequence begins with no more ones than the run counter leaves room for (R118). -/
theorem ones_prefix_stufFrom_le {run n : Nat} {s : Bits} (hrun : run ≤ 4)
    (h : List.replicate n true <+: stufFrom run s) : run + n ≤ 5 := by
  fun_induction stufFrom run s generalizing n with
  | case1 run =>
    have hn : n ≤ 0 := by simpa using h.length_le
    omega
  | case2 run s ih =>
    have hn : n ≤ 0 := by simpa using (ones_prefix_of_append (s := []) h).length_le
    omega
  | case3 run s h5 ih =>
    have hn : n ≤ 1 := by simpa using (ones_prefix_of_append (s := [true]) h).length_le
    omega
  | case4 run s h5 ih =>
    cases n with
    | zero => omega
    | succ n =>
      have hn : run + 1 + n ≤ 5 := ih (by omega) (List.cons_prefix_cons.1 h).2
      omega

/-- Stuffed data has no six 1 bits in a row: at none of its bits do they start. -/
theorem not_hasSixOnes_stufFrom {run : Nat} (hrun : run ≤ 4) (s : Bits) : ¬hasSixOnes (stufFrom run s) := by
  induction s generalizing run with
  | nil => simp [stufFrom, hasSixOnes]
  | cons b s ih =>
    have hstart : ¬List.replicate 6 true <+: stufFrom run (b :: s) := fun h => by
      have := ones_prefix_stufFrom_le hrun h
      omega
    cases b with
    | false =>
      rw [stufFrom] at hstart ⊢
      simp only [hasSixOnes_cons, hstart, ih (Nat.zero_le 4), or_self, not_false_eq_true]
    | true =>
      by_cases h5 : run + 1 = 5
      · have hzero : ¬List.replicate 6 true <+: false :: stufFrom 0 s := fun h => by cases (List.cons_prefix_cons.1 h).1
        rw [stufFrom, if_pos h5] at hstart ⊢
        simp only [hasSixOnes_cons, hstart, hzero, ih (Nat.zero_le 4), or_self, not_false_eq_true]
      · rw [stufFrom, if_neg h5] at hstart ⊢
        simp only [hasSixOnes_cons, hstart, ih (run := run + 1) (by omega), or_self, not_false_eq_true]

/-- UNSTUF from a run counter undoes STUF from the same. -/
theorem unstufFrom_stufFrom {run : Nat} (hrun : run ≤ 4) (s : Bits) : unstufFrom run (stufFrom run s) = some s := by
  fun_induction stufFrom run s with
  | case1 run => rfl
  | case2 run s ih => simp [unstufFrom, ih, show run ≠ 5 by omega]
  | case3 run s h5 ih => simp [unstufFrom, ih, h5, show run ≠ 5 by omega]
  | case4 run s h5 ih => simp [unstufFrom, ih (by omega), show run ≠ 5 by omega]

/-! ### BREV and STRIPCRC -/

/-- Induction over a sequence of whole bytes, a byte at a time. -/
theorem wholeBytes_induction {motive : (s : Bits) → s.length % 8 = 0 → Prop} (nil : motive [] rfl)
    (byte : ∀ b0 b1 b2 b3 b4 b5 b6 b7 rest (h : List.length rest % 8 = 0), motive rest h →
      motive (b0 :: b1 :: b2 :: b3 :: b4 :: b5 :: b6 :: b7 :: rest) ((Nat.add_mod_right _ 8).trans h))
    (s : Bits) (hs : s.length % 8 = 0) : motive s hs := by
  induction s using brev.induct with
  | case1 b0 b1 b2 b3 b4 b5 b6 b7 rest ih =>
    have hrest : List.length rest % 8 = 0 := (Nat.add_mod_right _ 8).symm.trans hs
    exact byte b0 b1 b2 b3 b4 b5 b6 b7 rest hrest (ih hrest)
  | case2 s hshort =>
    have hbrev : brev s = [] := by rw [brev]; exact hshort
    have hlen := brev_length hs
    rw [hbrev] at hlen
    obtain rfl := List.eq_nil_of_length_eq_zero hlen.symm
    exact nil

/-- Reversing every byte twice gives a sequence of whole bytes back. -/
theorem brev_brev {s : Bits} (hs : s.length % 8 = 0) : brev (brev s) = s := by
  induction s, hs using wholeBytes_induction with
  | nil => rfl
  | byte b0 b1 b2 b3 b4 b5 b6 b7 rest _ ih => simp only [brev, ih]

/-- Bytes are converted from the front. -/
theorem b2b_append {s : Bits} (hs : s.length % 8 = 0) (t : Bits) : b2b (s ++ t) = b2b s ++ b2b t := by
  induction s, hs using wholeBytes_induction with
  | nil => rfl
  | byte b0 b1 b2 b3 b4 b5 b6 b7 rest _ ih => simp only [List.cons_append, b2b, ih]

/-- The byte of eight bits is their value. -/
theorem byteOf_eq_bitsValue (b7 b6 b5 b4 b3 b2 b1 b0 : Bool) :
    byteOf b7 b6 b5 b4 b3 b2 b1 b0 = BitVec.ofNat 8 (bitsValue [b7, b6, b5, b4, b3, b2, b1, b0]) := by
  simp only [byteOf, bitsValue, List.foldl_cons, List.foldl_nil]
  congr 1
  ring

/-- `B2B` of the field of a byte is the byte. -/
theorem b2b_field (v : Byte) : b2b (field v 8) = [v] := by
  have hbyte : b2b (field v 8) = [BitVec.ofNat 8 (bitsValue (field v 8))] := by
    simp only [field, b2b, byteOf_eq_bitsValue]
  rw [hbyte, bitsValue_field, Nat.mod_eq_of_lt v.isLt, BitVec.ofNat_toNat, BitVec.setWidth_eq]

/-- As bytes, the CRC trailer is the low byte and then the high byte (R105). -/
theorem b2b_crcTrailer (c : BitVec 16) : b2b (crcTrailer c) = [c.extractLsb' 0 8, c.extractLsb' 8 8] := by
  rw [crcTrailer, b2b_append (by simp), b2b_field, b2b_field]
  rfl

/-- The two bytes of the trailer make up the CRC value. -/
theorem trailer_toNat (c : BitVec 16) : (c.extractLsb' 0 8).toNat + 256 * (c.extractLsb' 8 8).toNat = c.toNat := by
  have := c.isLt
  simp only [BitVec.extractLsb'_toNat, Nat.shiftRight_eq_div_pow]
  omega

/-- STRIPCRC drops the last two bytes where they are the CRC value of the bytes before them, low byte first (R165). -/
theorem stripCrc_of_bytes {cfg : Cfg} {v : Bits} {bytes : List Byte} {lo hi : Byte} (hv : v.length % 8 = 0)
    (h16 : 16 ≤ v.length) (hbytes : b2b v = bytes ++ [lo, hi])
    (hcrc : lo.toNat + 256 * hi.toNat = (crc16 cfg bytes).toNat) : stripCrc cfg v = some (v.take (v.length - 16)) := by
  simp [stripCrc, hbytes, hv, h16, hcrc]

/-- STRIPCRC undoes ACRC on whole bytes: the bytes before the trailer are the payload's, so the CRC value is the same. -/
theorem stripCrc_acrc (cfg : Cfg) {p : Bits} (hp : p.length % 8 = 0) : stripCrc cfg (acrc cfg p) = some p := by
  have hlen : (acrc cfg p).length = p.length + 16 := by simp [acrc]
  have hbytes : b2b (acrc cfg p) = b2b p ++ [(crc16 cfg (b2b p)).extractLsb' 0 8, (crc16 cfg (b2b p)).extractLsb' 8 8] := by
    rw [acrc, b2b_append hp, b2b_crcTrailer]
  have htake : (acrc cfg p).take p.length = p := List.take_left
  rw [stripCrc_of_bytes (by omega) (by omega) hbytes (trailer_toNat _), hlen, Nat.add_sub_cancel, htake]

/-! ### The round trip -/

theorem unreverse_brev (cfg : Cfg) {v : Bits} (hv : v.length % 8 = 0) : unreverse cfg (brev v) = stripCrc cfg v := by
  rw [unreverse, brev_length hv, if_pos hv, brev_brev hv]

/-- UNFRAME undoes FRAME on whole bytes (R166). -/
theorem unframe_frame (cfg : Cfg) {p : Bits} (hp : p.length % 8 = 0) : unframe cfg (frame cfg p) = some p := by
  have hv : (acrc cfg p).length % 8 = 0 := by
    rw [acrc, List.length_append, crcTrailer_length]
    omega
  have hunwrap (t : Bits) : unwrap (wrap cfg (stuf (brev (acrc cfg p))) ++ t) = some (stuf (brev (acrc cfg p))) :=
    unwrap_wrap cfg (not_hasSixOnes_stufFrom (Nat.zero_le 4) _) t
  have hunstuf : unstuf (stuf (brev (acrc cfg p))) = some (brev (acrc cfg p)) := unstufFrom_stufFrom (Nat.zero_le 4) _
  rw [unframe, frame, pad, nrzi, nrziDec_nrziFrom, hunwrap, Option.bind_some, hunstuf, Option.bind_some,
    unreverse_brev cfg hv, stripCrc_acrc cfg hp]

/-- Settles O54. -/
theorem unframeOfFrame : Obligations.UnframeOfFrame := by
  refine ⟨fun cfg _ hp => unframe_frame cfg hp, fun n value width before after => ?_⟩
  have hplace := unfield_append before (field value width) after
  rwa [field_length, bitsValue_field] at hplace

end Sys2Proof.Machine

/-!
SUPPORT. Bytes as bits, and the micro-operations U1, U2, U3 with the stops outside FIN (spec/41_crc.md R100, R101, R103, R106). The eight
bits of a byte are its field, so that `FIELD` reads back what `B2B` took; what ACRC answers is said once for each of its two outcomes.
-/

namespace Sys2Proof.Machine

/-! ### B2B -/

/-- The field of a byte is the eight bits it was made of (R84, R100). -/
theorem field_byteOf :
    ∀ b7 b6 b5 b4 b3 b2 b1 b0, field (byteOf b7 b6 b5 b4 b3 b2 b1 b0) 8 = [b7, b6, b5, b4, b3, b2, b1, b0] := by decide

/-- Eight bits are the field of the one byte they make. -/
theorem b2b_of_length_eight {m : Bits} (hm : m.length = 8) : ∃ v, b2b m = [v] ∧ field v 8 = m := by
  match m, hm with
  | [b7, b6, b5, b4, b3, b2, b1, b0], _ => exact ⟨byteOf b7 b6 b5 b4 b3 b2 b1 b0, rfl, field_byteOf b7 b6 b5 b4 b3 b2 b1 b0⟩

/-- Byte `k` of `B2B` is the one whose field is the group of eight bits from `8k` on. -/
theorem b2b_getElem? {s : Bits} (hs : s.length % 8 = 0) {k : Nat} (hk : k < s.length / 8) :
    ∃ v, (b2b s)[k]? = some v ∧ (s.drop (8 * k)).take 8 = field v 8 := by
  induction s, hs using wholeBytes_induction generalizing k with
  | nil => cases hk
  | byte b0 b1 b2 b3 b4 b5 b6 b7 rest _ ih =>
    cases k with
    | zero => exact ⟨byteOf b0 b1 b2 b3 b4 b5 b6 b7, rfl, (field_byteOf b0 b1 b2 b3 b4 b5 b6 b7).symm⟩
    | succ k =>
      have hrest : k < rest.length / 8 := by
        simp only [List.length_cons] at hk
        omega
      exact ih hrest

/-- Settles O29. -/
theorem b2bBytes : Obligations.B2bBytes := by
  refine fun s hs => ⟨b2b_length s, fun k hk => ?_⟩
  obtain ⟨v, hv, hgroup⟩ := b2b_getElem? hs hk
  refine ⟨v, hv, fun j hj => ?_⟩
  calc s[8 * k + j]?
    _ = ((s.drop (8 * k)).take 8)[j]? := by rw [List.getElem?_take_of_lt hj, List.getElem?_drop]
    _ = some (v.getLsbD (7 - j)) := by rw [hgroup, field_getElem? v hj]

/-! ### The micro-operations on a running block -/

section
variable {s : State} {d : Buffers}

theorem exec_b2b_running (hr : s.Running d) :
    exec .b2b s = onWholeBytes d.w (.next { s with data := some { d with bytes := b2b d.w }, stage := .crc }) := by
  change execB2b s = _
  rw [execB2b, onMicro_running hr.1, withData_some hr.2]

/-- Where the trailer fits, it is appended to a payload of whole bytes, and to no other. -/
theorem exec_acrc_of_room (hr : s.Running d) (hfit : d.w.length + 16 ≤ s.cfg.wcap) :
    exec .acrc s = onWholeBytes (d.w ++ crcTrailer s.crc)
      (.next { s with
        data := some { d with w := d.w ++ crcTrailer s.crc, bytes := b2b (d.w ++ crcTrailer s.crc) }
        stage := .brev }) := by
  change execAcrc s = _
  rw [execAcrc, onMicro_running hr.1, withData_some hr.2, if_neg (by omega), writeCells_at_length]

theorem exec_acrc_of_overrun (hr : s.Running d) (hover : s.cfg.wcap < d.w.length + 16) :
    exec .acrc s = .next (s.raiseFatal .overrun) := by
  change execAcrc s = _
  rw [execAcrc, onMicro_running hr.1, withData_some hr.2, if_pos hover]

/-- The trailer is two bytes, so the bits left over are those of the payload. -/
theorem length_append_crcTrailer_mod (w : Bits) (c : BitVec 16) : (w ++ crcTrailer c).length % 8 = w.length % 8 := by
  rw [List.length_append, crcTrailer_length]
  omega

end

/-- Settles O28. -/
theorem b2bConvertsPayload : Obligations.B2bConvertsPayload :=
  fun _ _ hr hw => (exec_b2b_running hr).trans (onWholeBytes_pos hw _)

/-- Settles O30. -/
theorem crcCoversBytes : Obligations.CrcCoversBytes := by
  intro s d hr
  change execCrc s = _
  rw [execCrc, onMicro_running hr.1, withData_some hr.2]

/-- Settles O31. -/
theorem acrcAppendsTrailerOrFaults : Obligations.AcrcAppendsTrailerOrFaults := by
  refine fun s d hr => ⟨fun hw hfit => ?_, exec_acrc_of_overrun hr⟩
  have hwhole : (d.w ++ crcTrailer s.crc).length % 8 = 0 := by rw [length_append_crcTrailer_mod, hw]
  dsimp only
  rw [exec_acrc_of_room hr hfit, onWholeBytes_pos hwhole, crcTrailer, List.append_assoc]

/-- Settles O37. -/
theorem microOperationsStopOutsideFin : Obligations.MicroOperationsStopOutsideFin := by
  refine fun s d hr => ⟨fun hragged => ⟨?_, ?_, fun hfit => ?_⟩, fun hpkt => ?_⟩
  · rw [exec_b2b_running hr, onWholeBytes_neg hragged]
  · change execBrev s = _
    rw [execBrev, onMicro_running hr.1, withData_some hr.2, onWholeBytes_neg hragged]
  · rw [exec_acrc_of_room hr hfit, onWholeBytes_neg (by rwa [length_append_crcTrailer_mod])]
  · change execEmit s = _
    rw [execEmit, onMicro_running hr.1, withData_some hr.2, if_pos hpkt]

end Sys2Proof.Machine

/-!
SUPPORT. The CRC (spec/41_crc.md R104, R107, R108). With an odd polynomial a shift of the register loses nothing: the bit shifted out
stands in bit 0 afterwards. So the register after a byte determines the register before it, and, for one register, the byte; two
lists that differ in one byte leave the generator in different registers. The right-shifting form runs on the reflected register.
-/

namespace Sys2Proof.Machine

/-! ### Reversed bytes and reflected registers -/

/-- Reversing the bits of a byte reverses its field. -/
theorem field_bitrev8 (v : Byte) : field (bitrev8 v) 8 = (field v 8).reverse := by
  rw [bitrev8, field_byteOf]
  rfl

/-- `bitrev8` moves bit `7-i` to bit `i` (R8). -/
theorem bitrev8_getLsbD (v : Byte) {i : Nat} (hi : i < 8) : (bitrev8 v).getLsbD i = v.getLsbD (7 - i) := by
  apply Option.some.inj
  calc some ((bitrev8 v).getLsbD i)
    _ = (field (bitrev8 v) 8)[7 - i]? := by
        rw [field_getElem? _ (by omega), show 8 - 1 - (7 - i) = i by omega]
    _ = (field v 8)[i]? := by
        rw [field_bitrev8, List.getElem?_reverse (by rw [field_length]; omega), field_length,
          show 8 - 1 - (7 - i) = i by omega]
    _ = some (v.getLsbD (7 - i)) := field_getElem? v hi

theorem bitrev8_bitrev8 (v : Byte) : bitrev8 (bitrev8 v) = v := by
  refine BitVec.eq_of_getLsbD_eq fun i hi => ?_
  rw [bitrev8_getLsbD _ hi, bitrev8_getLsbD _ (by omega), show 7 - (7 - i) = i by omega]

/-- `reflect16` moves bit `15-i` to bit `i` (R8). -/
theorem reflect16_getLsbD (v : BitVec 16) {i : Nat} (hi : i < 16) : (reflect16 v).getLsbD i = v.getLsbD (15 - i) := by
  rw [reflect16, BitVec.getLsbD_append]
  split
  next hlow =>
    rw [bitrev8_getLsbD _ hlow, BitVec.getLsbD_extractLsb', show 8 + (7 - i) = 15 - i by omega]
    simp only [show 7 - i < 8 by omega, decide_true, Bool.true_and]
  next hhigh =>
    rw [bitrev8_getLsbD _ (by omega), BitVec.getLsbD_extractLsb', show 0 + (7 - (i - 8)) = 15 - i by omega]
    simp only [show 7 - (i - 8) < 8 by omega, decide_true, Bool.true_and]

theorem reflect16_reflect16 (v : BitVec 16) : reflect16 (reflect16 v) = v := by
  refine BitVec.eq_of_getLsbD_eq fun i hi => ?_
  rw [reflect16_getLsbD _ hi, reflect16_getLsbD _ (by omega), show 15 - (15 - i) = i by omega]

theorem reflect16_xor (v v' : BitVec 16) : reflect16 (v ^^^ v') = reflect16 v ^^^ reflect16 v' := by
  refine BitVec.eq_of_getLsbD_eq fun i hi => ?_
  simp only [BitVec.getLsbD_xor, reflect16_getLsbD _ hi]

/-- Reflection turns a left shift into a right shift. -/
theorem reflect16_shiftLeft_one (v : BitVec 16) : reflect16 (v <<< 1) = reflect16 v >>> 1 := by
  refine BitVec.eq_of_getLsbD_eq fun i hi => ?_
  rw [reflect16_getLsbD _ hi, BitVec.getLsbD_ushiftRight, BitVec.getLsbD_shiftLeft]
  obtain hlow | rfl : i < 15 ∨ i = 15 := by omega
  · rw [reflect16_getLsbD _ (by omega), show 15 - i - 1 = 15 - (1 + i) by omega]
    simp [show 15 - i ≠ 0 by omega, show 15 - i < 16 by omega]
  · simp

/-- A byte in bits 15:8 is reflected to the reversed byte in bits 7:0. -/
theorem reflect16_append_zero (x : Byte) : reflect16 (x ++ (0 : BitVec 8) : BitVec (8 + 8)) = (bitrev8 x).setWidth 16 := by
  refine BitVec.eq_of_getLsbD_eq fun i hi => ?_
  rw [reflect16_getLsbD _ hi, BitVec.getLsbD_append, BitVec.getLsbD_setWidth]
  by_cases hlow : i < 8
  · rw [if_neg (by omega), bitrev8_getLsbD _ hlow, show 15 - i - 8 = 7 - i by omega]
    simp [hi]
  · rw [if_pos (by omega)]
    simp [show 8 ≤ i by omega]

/-! ### Single-bit changes -/

section
variable {poly : BitVec 16} (hodd : poly.getLsbD 0 = true)
include hodd

/-- The bit shifted out of the register is seen in bit 0, where an odd polynomial is XORed in. -/
theorem crcShift_getLsbD_zero (r : BitVec 16) : (crcShift poly r).getLsbD 0 = r.getLsbD 15 := by
  rw [crcShift]
  split
  next htop => rw [BitVec.getLsbD_xor, hodd, htop, BitVec.getLsbD_shiftLeft, decide_eq_true Nat.one_pos]; rfl
  next htop => rw [BitVec.getLsbD_shiftLeft, Bool.eq_false_of_not_eq_true htop, decide_eq_true Nat.one_pos]; rfl

theorem crcShift_injective : Function.Injective (crcShift poly) := by
  intro r r' h
  have htop : r.getLsbD 15 = r'.getLsbD 15 := by
    rw [← crcShift_getLsbD_zero hodd, h, crcShift_getLsbD_zero hodd]
  have hshift : r <<< 1 = r' <<< 1 := by
    rw [crcShift, crcShift, htop] at h
    split at h
    · exact (BitVec.xor_left_inj poly).1 h
    · exact h
  refine BitVec.eq_of_getLsbD_eq fun i hi => ?_
  obtain hlow | rfl : i < 15 ∨ i = 15 := by omega
  · have hbit : (r <<< 1).getLsbD (i + 1) = (r' <<< 1).getLsbD (i + 1) := by rw [hshift]
    simpa [hi, show i + 1 < 16 by omega] using hbit
  · exact htop

theorem crcShifts_injective (n : Nat) : Function.Injective (crcShifts poly n) := by
  induction n with
  | zero => exact fun _ _ h => h
  | succ n ih => exact ih.comp (crcShift_injective hodd)

end

/-- What CRC16 makes of the last register loses nothing. -/
theorem foldl_eq_of_crc16_eq {cfg : Cfg} {bytes bytes' : List Byte} (h : crc16 cfg bytes = crc16 cfg bytes') :
    bytes.foldl (crcByte cfg) cfg.crcInit = bytes'.foldl (crcByte cfg) cfg.crcInit := by
  have hr := (BitVec.xor_left_inj _).1 h
  split at hr
  · exact Function.LeftInverse.injective reflect16_reflect16 hr
  · exact hr

section
variable {cfg : Cfg} (hodd : cfg.crcPoly.getLsbD 0 = true)
include hodd

/-- The register after a byte determines the register before it. -/
theorem crcByte_injective_register (b : Byte) : Function.Injective fun r => crcByte cfg r b :=
  fun _ _ h => (BitVec.xor_left_inj _).1 (crcShifts_injective hodd 8 h)

/-- From one register, different bytes lead to different registers. -/
theorem crcByte_injective_byte (r : BitVec 16) : Function.Injective (crcByte cfg r) := by
  intro b b' h
  have hx : (if cfg.crcRefin then bitrev8 b else b) = if cfg.crcRefin then bitrev8 b' else b' :=
    (BitVec.append_left_inj _).1 ((BitVec.xor_right_inj (w := 16) r).1 (crcShifts_injective hodd 8 h))
  split at hx
  · exact Function.LeftInverse.injective bitrev8_bitrev8 hx
  · exact hx

/-- The register after a list of bytes determines the register before it. -/
theorem foldl_crcByte_injective (bytes : List Byte) : Function.Injective fun r => bytes.foldl (crcByte cfg) r := by
  induction bytes with
  | nil => exact fun _ _ h => h
  | cons b bytes ih => exact ih.comp (crcByte_injective_register hodd b)

/-- Byte lists that differ in one byte have different CRC values (R107). -/
theorem crc16_ne_of_byte_ne (before after : List Byte) {b b' : Byte} (hne : b ≠ b') :
    crc16 cfg (before ++ [b] ++ after) ≠ crc16 cfg (before ++ [b'] ++ after) := by
  intro h
  have hfold := foldl_eq_of_crc16_eq h
  simp only [List.foldl_append, List.foldl_cons, List.foldl_nil] at hfold
  exact hne (crcByte_injective_byte hodd _ (foldl_crcByte_injective hodd after hfold))

end

/-- Flipping a bit changes the byte. -/
theorem xor_twoPow_ne (b : Byte) {k : Nat} (hk : k < 8) : b ≠ b ^^^ BitVec.twoPow 8 k := by
  intro h
  have hbit : b.getLsbD k = (b ^^^ BitVec.twoPow 8 k).getLsbD k := by rw [← h]
  simp [hk] at hbit

/-- The byte a bit stands in: a whole number of bytes before it, and seven other bits around the bit. -/
theorem exists_byte_around_bit {before after : Bits} (h : (before.length + 1 + after.length) % 8 = 0) :
    ∃ pre head tail rest, before = pre ++ head ∧ after = tail ++ rest ∧ pre.length % 8 = 0 ∧
      head.length + 1 + tail.length = 8 := by
  refine ⟨before.take (8 * (before.length / 8)), before.drop (8 * (before.length / 8)), after.take (7 - before.length % 8),
    after.drop (7 - before.length % 8), (List.take_append_drop _ _).symm, (List.take_append_drop _ _).symm, ?_, ?_⟩
  · rw [List.length_take]
    omega
  · rw [List.length_drop, List.length_take]
    omega

/-- A one-bit difference of payloads is a one-byte difference of their byte lists (R169). -/
theorem b2b_of_bit_ne {before after : Bits} (b : Bool) (h : (before.length + 1 + after.length) % 8 = 0) :
    ∃ bytes v v' bytes', v ≠ v' ∧ b2b (before ++ [b] ++ after) = bytes ++ [v] ++ bytes' ∧
      b2b (before ++ [!b] ++ after) = bytes ++ [v'] ++ bytes' := by
  obtain ⟨pre, head, tail, rest, rfl, rfl, hpre, hlen⟩ := exists_byte_around_bit h
  have hmid (c : Bool) : (head ++ [c] ++ tail).length = 8 := by
    rw [List.length_append, List.length_append]
    exact hlen
  have hsplit (c : Bool) : b2b (pre ++ head ++ [c] ++ (tail ++ rest)) = b2b pre ++ b2b (head ++ [c] ++ tail) ++ b2b rest := by
    rw [List.append_assoc (b2b pre), ← b2b_append (by rw [hmid]), ← b2b_append hpre]
    simp only [List.append_assoc]
  obtain ⟨v, hv, hfield⟩ := b2b_of_length_eight (hmid b)
  obtain ⟨v', hv', hfield'⟩ := b2b_of_length_eight (hmid !b)
  refine ⟨b2b pre, v, v', b2b rest, ?_, by rw [hsplit, hv], by rw [hsplit, hv']⟩
  rintro rfl
  have hbits : head ++ [b] ++ tail = head ++ [!b] ++ tail := hfield.symm.trans hfield'
  simp at hbits

/-- The trailer determines the CRC value. -/
theorem crcTrailer_injective : Function.Injective crcTrailer := by
  intro c c' h
  have hbytes : [c.extractLsb' 0 8, c.extractLsb' 8 8] = [c'.extractLsb' 0 8, c'.extractLsb' 8 8] := by
    rw [← b2b_crcTrailer, h, b2b_crcTrailer]
  obtain ⟨hlow, hhigh⟩ : c.extractLsb' 0 8 = c'.extractLsb' 0 8 ∧ c.extractLsb' 8 8 = c'.extractLsb' 8 8 := by
    simpa using hbytes
  apply BitVec.eq_of_toNat_eq
  rw [← trailer_toNat c, hlow, hhigh, trailer_toNat]

/-- Settles O55. -/
theorem crcDetectsSingleBit : Obligations.CrcDetectsSingleBit := by
  refine fun cfg hodd => ⟨fun before after b k hk => crc16_ne_of_byte_ne hodd before after (xor_twoPow_ne b hk),
    fun before after b hlen => ?_⟩
  rw [List.length_append, List.length_append, List.length_singleton] at hlen
  obtain ⟨bytes, v, v', bytes', hne, hb, hb'⟩ := b2b_of_bit_ne b hlen
  have hcrc : crc16 cfg (b2b (before ++ [b] ++ after)) ≠ crc16 cfg (b2b (before ++ [!b] ++ after)) := by
    rw [hb, hb']
    exact crc16_ne_of_byte_ne hodd bytes bytes' hne
  exact ⟨hcrc, crcTrailer_injective.ne hcrc⟩

/-! ### The named parameter sets and the right-shifting form -/

/-- Settles O57. -/
theorem crcVariantCheckValues : Obligations.CrcVariantCheckValues := by
  unfold Obligations.CrcVariantCheckValues
  decide +kernel

/-- On the reflected register the default shift is the right shift of R104. -/
theorem fcsShift_reflect16 (r : BitVec 16) : fcsShift (reflect16 r) = reflect16 (crcShift 0x1021 r) := by
  have hpoly : reflect16 0x1021 = 0x8408 := by decide
  rw [fcsShift, crcShift, reflect16_getLsbD _ (by decide), apply_ite reflect16, reflect16_xor, hpoly, reflect16_shiftLeft_one]

theorem fcsShifts_reflect16 (n : Nat) (r : BitVec 16) : fcsShifts n (reflect16 r) = reflect16 (crcShifts 0x1021 n r) := by
  induction n generalizing r with
  | zero => rfl
  | succ n ih => rw [fcsShifts, crcShifts, fcsShift_reflect16, ih]

theorem fcsByte_reflect16 (r : BitVec 16) (b : Byte) : fcsByte (reflect16 r) b = reflect16 (crcByte Cfg.default r b) := by
  have hbyte : b.setWidth 16 = reflect16 (bitrev8 b ++ (0 : BitVec 8) : BitVec (8 + 8)) := by
    rw [reflect16_append_zero, bitrev8_bitrev8]
  rw [fcsByte, hbyte, ← reflect16_xor, fcsShifts_reflect16]
  rfl

/-- The default CRC16 is the right-shifting form (R104): the two registers are reflections of each other after every byte. -/
theorem crc16_default (bytes : List Byte) : crc16 Cfg.default bytes = fcs16 bytes := by
  have hinit : reflect16 Cfg.default.crcInit = 0xFFFF := by decide
  have hfold : bytes.foldl fcsByte 0xFFFF = reflect16 (bytes.foldl (crcByte Cfg.default) Cfg.default.crcInit) := by
    rw [← hinit]
    exact List.foldl_hom reflect16 fcsByte_reflect16
  rw [fcs16, hfold]
  rfl

/-- Settles O56. -/
theorem defaultCrcIsRightShifting : Obligations.DefaultCrcIsRightShifting :=
  ⟨crc16_default, crcVariantCheckValues.1⟩

end Sys2Proof.Machine

/-!
SUPPORT. The bit-reversal unit and the bit-stuffing engine (spec/42_bitrev_stuff.md R115 to R120). What BREV does is said of one group of
eight bits, which it reverses where it stands; the index law, the law of the bytes and the count of 1 bits follow from that.
-/

namespace Sys2Proof.Machine

/-! ### BREV -/

/-- The groups of eight bits stay in order, each reversed (R115). -/
theorem brev_group {s : Bits} (hs : s.length % 8 = 0) (k : Nat) :
    ((brev s).drop (8 * k)).take 8 = ((s.drop (8 * k)).take 8).reverse := by
  induction s, hs using wholeBytes_induction generalizing k with
  | nil => simp [brev]
  | byte b0 b1 b2 b3 b4 b5 b6 b7 rest _ ih =>
    cases k with
    | zero => rfl
    | succ k => exact ih k

/-- BREV moves bit `8k+7-j` to `8k+j` (R115). -/
theorem brev_getElem? {s : Bits} (hs : s.length % 8 = 0) {k j : Nat} (hk : k < s.length / 8) (hj : j < 8) :
    (brev s)[8 * k + j]? = s[8 * k + 7 - j]? := by
  have hgroup : ((s.drop (8 * k)).take 8).length = 8 := by
    rw [List.length_take, List.length_drop]
    omega
  calc (brev s)[8 * k + j]?
    _ = (((brev s).drop (8 * k)).take 8)[j]? := by rw [List.getElem?_take_of_lt hj, List.getElem?_drop]
    _ = ((s.drop (8 * k)).take 8)[7 - j]? := by rw [brev_group hs, List.getElem?_reverse (by omega), hgroup]
    _ = s[8 * k + 7 - j]? := by
        rw [List.getElem?_take_of_lt (by omega), List.getElem?_drop, Nat.add_sub_assoc (by omega)]

/-- Bit `j` of byte `k` stands at `8k+j` after BREV: least significant first (R117). -/
theorem brev_getElem?_of_byte {s : Bits} (hs : s.length % 8 = 0) {k j : Nat} (hk : k < s.length / 8) (hj : j < 8)
    {b : Byte} (hb : (b2b s)[k]? = some b) : (brev s)[8 * k + j]? = some (b.getLsbD j) := by
  obtain ⟨_, hbytes⟩ := b2bBytes s hs
  obtain ⟨v, hv, hbits⟩ := hbytes k hk
  obtain rfl : v = b := Option.some.inj (hv.symm.trans hb)
  rw [brev_getElem? hs hk hj, Nat.add_sub_assoc (by omega), hbits (7 - j) (by omega), Nat.sub_sub_self (by omega)]

/-- Reversing the bits of a byte reverses the bits it was made of. -/
theorem bitrev8_byteOf : ∀ b7 b6 b5 b4 b3 b2 b1 b0,
    bitrev8 (byteOf b7 b6 b5 b4 b3 b2 b1 b0) = byteOf b0 b1 b2 b3 b4 b5 b6 b7 := by decide

/-- The bytes after BREV are the reversed bytes (R116). -/
theorem b2b_brev {s : Bits} (hs : s.length % 8 = 0) : b2b (brev s) = (b2b s).map bitrev8 := by
  induction s, hs using wholeBytes_induction with
  | nil => rfl
  | byte b0 b1 b2 b3 b4 b5 b6 b7 rest _ ih => simp only [brev, b2b, List.map_cons, bitrev8_byteOf, ih]

/-- BREV only moves bits. -/
theorem brev_perm {s : Bits} (hs : s.length % 8 = 0) : (brev s).Perm s := by
  induction s, hs using wholeBytes_induction with
  | nil => exact .nil
  | byte b0 b1 b2 b3 b4 b5 b6 b7 rest _ ih => exact (List.reverse_perm [b0, b1, b2, b3, b4, b5, b6, b7]).append ih

/-- BREV works from the front, a whole byte at a time. -/
theorem brev_append {s : Bits} (hs : s.length % 8 = 0) (t : Bits) : brev (s ++ t) = brev s ++ brev t := by
  induction s, hs using wholeBytes_induction with
  | nil => rfl
  | byte b0 b1 b2 b3 b4 b5 b6 b7 rest _ ih => simp only [List.cons_append, brev, ih]

/-- Settles O48. -/
theorem brevLaws : Obligations.BrevLaws := fun _ t hs =>
  ⟨brev_length hs, fun _ _ hk hj => ⟨brev_getElem? hs hk hj, fun _ => brev_getElem?_of_byte hs hk hj⟩,
    b2b_brev hs, brev_brev hs, (brev_perm hs).count_eq true, brev_append hs t⟩

/-! ### STUF -/

/-- The flag is six 1 bits between two 0 bits. -/
theorem hasSixOnes_of_flag_infix {s : Bits} (h : flag <:+: s) : hasSixOnes s :=
  List.IsInfix.trans ⟨[false], [false], rfl⟩ h

/-- Settles O49. -/
theorem stuffedNeverContainsFlag : Obligations.StuffedNeverContainsFlag := fun s =>
  have hsix : ¬hasSixOnes (stuf s) := not_hasSixOnes_stufFrom (Nat.zero_le 4) s
  ⟨hsix, fun h => hsix (hasSixOnes_of_flag_infix h)⟩

/-! ### The micro-operations U4 and U5 on a running block -/

section
variable {s : State} {d : Buffers}

/-- Where the stuffed sequence fits, it replaces `W`, which is never longer. -/
theorem exec_stuf_of_room (hr : s.Running d) (hfit : (stuf d.w).length ≤ s.cfg.wcap) :
    exec .stuf s = .next { s with
      data := some { d with w := stuf d.w, run := some (BitVec.ofNat 3 (runAfter 0 d.w)) }
      stage := .wrap } := by
  change execStuf s = _
  rw [execStuf, onMicro_running hr.1, withData_some hr.2, if_neg (by omega),
    writeCells_zero (v := stuf d.w) (stufFrom_length_ge 0 d.w)]

theorem exec_stuf_of_overrun (hr : s.Running d) (hover : s.cfg.wcap < (stuf d.w).length) :
    exec .stuf s = .next (s.raiseFatal .overrun) := by
  change execStuf s = _
  rw [execStuf, onMicro_running hr.1, withData_some hr.2, if_pos hover]

end

/-- Settles O32. -/
theorem brevReversesBytes : Obligations.BrevReversesBytes := by
  intro s d hr hw
  change execBrev s = _
  rw [execBrev, onMicro_running hr.1, withData_some hr.2, onWholeBytes_pos hw, writeCells_zero (brev_length hw).ge]

/-- Settles O33. -/
theorem stufStuffsOrFaults : Obligations.StufStuffsOrFaults := by
  refine fun s d hr => ⟨fun hfit => ?_, exec_stuf_of_overrun hr⟩
  have hle : runAfter 0 d.w ≤ 4 := runAfter_le (Nat.zero_le 4) d.w
  have hrun : (BitVec.ofNat 3 (runAfter 0 d.w)).toNat = runAfter 0 d.w := by
    rw [BitVec.toNat_ofNat, Nat.mod_eq_of_lt (by omega)]
  exact ⟨_, hrun, hrun.trans_le hle, exec_stuf_of_room hr hfit⟩

end Sys2Proof.Machine

/-!
SUPPORT. HDLC flags, the NRZI encoder and the packet output (spec/43_hdlc_nrzi_emit.md R130 to R140). A wrapped sequence is read part by
part: what stands behind its preamble is the data, the closing flag and the ramp-down. A flag needs six 1 bits in a row, which the
data between the flags does not have. The NRZI levels are followed one bit at a time, from any level.
-/

namespace Sys2Proof.Machine

/-! ### WRAP -/

/-- The pairs 0, 1 have a 1 at every odd index. -/
theorem pairs01_getElem? {n i : Nat} (hi : i < 2 * n) : (pairs01 n)[i]? = some (decide (i % 2 = 1)) := by
  induction n generalizing i with
  | zero => omega
  | succ n ih =>
    match i with
    | 0 | 1 => rfl
    | i + 2 =>
      calc (pairs01 n)[i]?
        _ = some (decide (i % 2 = 1)) := ih (by omega)
        _ = some (decide ((i + 2) % 2 = 1)) := by rw [Nat.add_mod_right]

/-- The training bits stand behind the ramp-up (R130). -/
theorem wrap_getElem?_train (cfg : Cfg) (s : Bits) {i : Nat} (hi : i < 24) :
    (wrap cfg s)[3 + i]? = some (decide (i % 2 = 1)) := by
  have hbehind : (wrap cfg s).drop 3 = train ++ (flag ++ s ++ flag ++ cfg.rampDown.bits) := by
    simp only [wrap, preamble, List.append_assoc]
    rfl
  calc (wrap cfg s)[3 + i]?
    _ = (train ++ (flag ++ s ++ flag ++ cfg.rampDown.bits))[i]? := by rw [← hbehind, List.getElem?_drop]
    _ = (pairs01 12)[i]? := List.getElem?_append_left hi
    _ = some (decide (i % 2 = 1)) := pairs01_getElem? hi

/-- The opening flag (R130). -/
theorem wrap_openingFlag (cfg : Cfg) (s : Bits) : ((wrap cfg s).drop 27).take 8 = flag := by
  simp only [wrap, preamble, List.append_assoc]
  rfl

/-- What stands behind the preamble (R130). -/
theorem wrap_drop_preamble (cfg : Cfg) (s : Bits) : (wrap cfg s).drop 35 = s ++ (flag ++ cfg.rampDown.bits) := by
  simp only [wrap, List.append_assoc]
  exact List.drop_left' (preamble_length cfg)

/-- What stands behind the data (R130). -/
theorem wrap_drop_data (cfg : Cfg) (s : Bits) : (wrap cfg s).drop (35 + s.length) = flag ++ cfg.rampDown.bits := by
  rw [← List.drop_drop, wrap_drop_preamble, List.drop_left]

/-- The closing flag (R130). -/
theorem wrap_closingFlag (cfg : Cfg) (s : Bits) : ((wrap cfg s).drop (35 + s.length)).take 8 = flag := by
  rw [wrap_drop_data]
  rfl

/-- The ramp-down ends the sequence (R130). -/
theorem wrap_drop_closingFlag (cfg : Cfg) (s : Bits) : (wrap cfg s).drop (43 + s.length) = cfg.rampDown.bits := by
  rw [show 43 + s.length = 35 + s.length + 8 by omega, ← List.drop_drop, wrap_drop_data]
  rfl

/-- Settles O51. -/
theorem wrapIndexMap : Obligations.WrapIndexMap := by
  refine fun cfg s => ⟨wrap_length cfg s, rfl, fun _ => wrap_getElem?_train cfg s, wrap_openingFlag cfg s, ?_,
    wrap_closingFlag cfg s, wrap_drop_closingFlag cfg s⟩
  rw [wrap_drop_preamble, List.take_left]

/-- Between the opening flag's first bit and its last there is no 0. -/
theorem wrap_getElem?_openingFlag (cfg : Cfg) (s : Bits) {j : Nat} (h27 : 27 < j) (h34 : j < 34) :
    (wrap cfg s)[j]? = some true := by
  obtain ⟨i, rfl⟩ := Nat.exists_eq_add_of_le h27.le
  have hones : ∀ i < 7, 0 < i → flag[i]? = some true := by decide
  calc (wrap cfg s)[27 + i]?
    _ = (((wrap cfg s).drop 27).take 8)[i]? := by rw [List.getElem?_take_of_lt (by omega), List.getElem?_drop]
    _ = some true := by rw [wrap_openingFlag, hones i (by omega) (by omega)]

/-- The opening flag's last 0 stands right before the data. -/
theorem wrap_drop_lastZero (cfg : Cfg) (s : Bits) :
    (wrap cfg s).drop 34 = (false :: s) ++ (flag ++ cfg.rampDown.bits) := by
  have hzero : (wrap cfg s).drop 34 = false :: (wrap cfg s).drop 35 := rfl
  rw [hzero, wrap_drop_preamble, List.cons_append]

theorem not_hasSixOnes_false_cons {s : Bits} (hs : ¬hasSixOnes s) : ¬hasSixOnes (false :: s) := by
  rw [hasSixOnes_cons, not_or]
  exact ⟨fun h => absurd (List.cons_prefix_cons.1 h).1 (by decide), hs⟩

/-- No flag begins inside a sequence without six 1 bits in a row, even where the closing flag follows it. -/
theorem not_flag_prefix_drop {s : Bits} (hs : ¬hasSixOnes s) (t : Bits) {j : Nat} (hj : j < s.length) :
    ¬flag <+: (s ++ (flag ++ t)).drop j := by
  intro h
  rw [List.drop_append_of_le_length hj.le, List.drop_eq_getElem_cons hj] at h
  obtain ⟨_, hseven⟩ := List.cons_prefix_cons.1 h
  have hsix : List.replicate 6 true <+: s.drop (j + 1) ++ (flag ++ t) := (List.prefix_append _ [false]).trans hseven
  exact hs ((ones_prefix_of_append hsix).isInfix.trans (List.drop_suffix (j + 1) s).isInfix)

/-- Settles O52: a flag cannot begin at one of the opening flag's 1 bits; from its last 0 on, which is taken together with the data, it
would need six 1 bits in the stuffed data. -/
theorem flagsDelimitFrame : Obligations.FlagsDelimitFrame := by
  refine fun cfg x j => ⟨wrap_openingFlag cfg _, wrap_closingFlag cfg _, fun h27 hend hflag => ?_⟩
  by_cases h34 : j < 34
  · have hfirst : (wrap cfg (stuf x))[j]? = some false := by
      calc (wrap cfg (stuf x))[j]?
        _ = (((wrap cfg (stuf x)).drop j).take 8)[0]? := by rw [List.getElem?_take_of_lt (by omega), List.getElem?_drop, Nat.add_zero]
        _ = some false := by rw [hflag]; rfl
    rw [wrap_getElem?_openingFlag cfg _ h27 h34] at hfirst
    cases hfirst
  · obtain ⟨k, rfl⟩ := Nat.exists_eq_add_of_le (Nat.le_of_not_lt h34)
    have hsix : ¬hasSixOnes (false :: stuf x) := not_hasSixOnes_false_cons (not_hasSixOnes_stufFrom (Nat.zero_le 4) x)
    have hk : k < (false :: stuf x).length := by
      rw [List.length_cons]
      omega
    refine not_flag_prefix_drop hsix cfg.rampDown.bits hk ?_
    rw [← wrap_drop_lastZero, List.drop_drop, ← hflag]
    exact List.take_prefix 8 _

/-! ### NRZI -/

/-- The levels of the first bits come first, and the rest goes on from the last of them (R136). -/
theorem nrziFrom_append (lvl : Bool) (s u : Bits) :
    nrziFrom lvl (s ++ u) = nrziFrom lvl s ++ nrziFrom (levelAfter lvl s) u := by
  induction s generalizing lvl with
  | nil => rfl
  | cons b s ih => exact congrArg (nextLevel lvl b :: ·) (ih (nextLevel lvl b))

/-- Each level is the one before it XOR the inverse of the input bit (R134). -/
theorem nrziFrom_getElem?_succ {lvl a b : Bool} {s : Bits} {i : Nat} (ha : (lvl :: nrziFrom lvl s)[i]? = some a)
    (hb : s[i]? = some b) : (lvl :: nrziFrom lvl s)[i + 1]? = some (a ^^ !b) := by
  induction s generalizing lvl i with
  | nil => cases hb
  | cons c s ih =>
    cases i with
    | zero =>
      obtain rfl := Option.some.inj ha
      obtain rfl := Option.some.inj hb
      cases lvl <;> cases c <;> rfl
    | succ i => exact ih ha hb

/-- The last level is the one the encoder ends at. -/
theorem nrziFrom_getLast? (lvl : Bool) (s : Bits) : (lvl :: nrziFrom lvl s).getLast? = some (levelAfter lvl s) := by
  induction s generalizing lvl with
  | nil => rfl
  | cons b s ih =>
    rw [nrziFrom, List.getLast?_cons_cons]
    exact ih (nextLevel lvl b)

/-- Only a 0 toggles the level, so an even number of them leaves it where it began. -/
theorem levelAfter_eq (lvl : Bool) (s : Bits) : levelAfter lvl s = (lvl == decide (s.count false % 2 = 0)) := by
  induction s generalizing lvl with
  | nil => cases lvl <;> rfl
  | cons b s ih =>
    have hstep : levelAfter lvl (b :: s) = (nextLevel lvl b == decide (s.count false % 2 = 0)) := ih _
    cases b with
    | true => rw [hstep, List.count_cons_of_ne (by decide)]; rfl
    | false =>
      have htoggle : decide ((s.count false + 1) % 2 = 0) = !decide (s.count false % 2 = 0) := by
        rw [← decide_not, decide_eq_decide]
        omega
      rw [hstep, List.count_cons_self, htoggle]
      cases lvl <;> simp [nextLevel]

/-- Settles O53. -/
theorem nrziInvertible : Obligations.NrziInvertible := by
  refine fun s u => ⟨nrzi_length s, rfl, fun _ _ _ => nrziFrom_getElem?_succ, ?_, ?_, ?_⟩
  · have hback := nrziDec_nrziFrom true s []
    rwa [List.append_nil, nrziDec, List.append_nil] at hback
  · rw [nrzi, nrzi, nrziFrom_append]
    exact List.prefix_append (true :: nrziFrom true s) _
  · rw [nrzi, nrziFrom_getLast?, levelAfter_eq, Bool.true_beq]

/-! ### REQLEN and PAD -/

/-- The required length is the least multiple of the quantum that is not below the length (R138). -/
theorem reqLen_le {cfg : Cfg} (hq : 1 ≤ cfg.padQ) {n m : Nat} (hm : cfg.padQ ∣ m) (hn : n ≤ m) : reqLen cfg n ≤ m := by
  obtain ⟨k, rfl⟩ := hm
  have hceil : (n + cfg.padQ - 1) / cfg.padQ < k + 1 := Nat.div_lt_of_lt_mul (by rw [Nat.mul_succ]; omega)
  exact Nat.mul_le_mul_left _ (Nat.le_of_lt_succ hceil)

/-- Settles O60. -/
theorem requiredLengthIsLeastMultiple : Obligations.RequiredLengthIsLeastMultiple := by
  refine fun cfg n s hq => ⟨le_reqLen hq n, Nat.dvd_mul_right _ _, fun _ => reqLen_le hq, List.prefix_append _ _,
    pad_length hq s, fun b hb => ?_⟩
  rw [pad, List.drop_left] at hb
  exact List.eq_of_mem_replicate hb

/-! ### The micro-operations U6, U7 and U8 on a running block -/

/-- What WRAP does (R131): where 46 more bits fit, the wrapped sequence replaces `W`, which is shorter. -/
theorem exec_wrap_running {s : State} {d : Buffers} (hr : s.Running d) :
    exec .wrap s =
      if d.w.length + 46 > s.cfg.wcap then .next (s.raiseFatal .overrun)
      else .next { s with data := some { d with w := wrap s.cfg d.w }, stage := .nrzi } := by
  have hgrows : d.w.length ≤ (wrap s.cfg d.w).length := by
    rw [wrap_length]
    omega
  change execWrap s = _
  rw [execWrap, onMicro_running hr.1, withData_some hr.2, writeCells_zero hgrows]

/-- Settles O34. -/
theorem wrapFramesOrFaults : Obligations.WrapFramesOrFaults := fun _ _ hr =>
  ⟨fun hfit => (exec_wrap_running hr).trans (if_neg (Nat.not_lt.2 hfit)),
    fun hover => (exec_wrap_running hr).trans (if_pos hover)⟩

/-- Settles O35. -/
theorem nrziEncodesLine : Obligations.NrziEncodesLine := by
  refine fun s d hr => ⟨levelAfter true d.w, nrziFrom_getLast? true d.w, ?_⟩
  change execNrzi s = _
  rw [execNrzi, onMicro_running hr.1, withData_some hr.2]

/-- What EMIT does with an OPEN packet that holds `q` (R139). -/
theorem exec_emit_opened {s : State} {d : Buffers} {q : Bits} (hr : s.Running d) (ho : s.pktSt = .opened)
    (hq : s.pktBits = some q) :
    exec .emit s =
      if reqLen s.cfg (q.length + d.line.length) > s.cfg.pktCap then .next (s.raiseFatal .pktCap)
      else .next { s with pktBits := some (pad s.cfg (q ++ d.line)), stage := .idle } := by
  change execEmit s = _
  rw [execEmit, onMicro_running hr.1, withData_some hr.2, if_neg (not_not_intro ho), hq]
  simp only [writeCells_at_length, ← List.length_append, pad]

/-- Settles O36. -/
theorem emitAppendsAndPadsOrFaults : Obligations.EmitAppendsAndPadsOrFaults := fun _ _ _ hr ho hq =>
  ⟨fun hfit => (exec_emit_opened hr ho hq).trans (if_neg (Nat.not_lt.2 hfit)),
    fun hover => (exec_emit_opened hr ho hq).trans (if_pos hover)⟩

/-! ### The default capacities -/

/-- Stuffing from a run counter inserts at most one bit for every five, those already counted included (R118). -/
theorem stufFrom_length_le (run : Nat) (s : Bits) : (stufFrom run s).length ≤ s.length + (run + s.length) / 5 := by
  fun_induction stufFrom run s with
  | case1 run => simp
  | case2 run s ih | case3 run s h5 ih | case4 run s h5 ih =>
    simp only [List.length_cons]
    omega

/-- FIN meets no fault where every check passes (R192). -/
theorem finFault_eq_none {cfg : Cfg} {q p : Bits} (hwhole : p.length % 8 = 0) (hacrc : p.length + 16 ≤ cfg.wcap)
    (hwrap : (stuf (brev (acrc cfg p))).length + 46 ≤ cfg.wcap)
    (hemit : reqLen cfg (q.length + ((stuf (brev (acrc cfg p))).length + 47)) ≤ cfg.pktCap) : finFault cfg q p = none := by
  rw [finFault, if_neg (not_not_intro hwhole), if_neg (by omega), if_neg (by omega), if_neg (by omega), if_neg (by omega)]

/-- The stuffed sequence of a payload is its bits and the trailer's, and at most one more for every five (R172). -/
theorem stuffed_length_le (cfg : Cfg) {p : Bits} (hp : p.length % 8 = 0) :
    (stuf (brev (acrc cfg p))).length ≤ p.length + 16 + (p.length + 16) / 5 := by
  have hacrc : (acrc cfg p).length = p.length + 16 := by rw [acrc, List.length_append, crcTrailer_length]
  have hbrev : (brev (acrc cfg p)).length = p.length + 16 := (brev_length (by omega)).trans hacrc
  have hstuf := stufFrom_length_le 0 (brev (acrc cfg p))
  rwa [hbrev, Nat.zero_add] at hstuf

/-- Settles O43: at most 384 bits are stuffed to at most 460, framed to 506 and encoded to 507, and 512 is a multiple of the pad
quantum. -/
theorem defaultCapacitySuffices : Obligations.DefaultCapacitySuffices := by
  intro p hp h368
  have hstuf : (stuf (brev (acrc Cfg.default p))).length ≤ 460 := (stuffed_length_le Cfg.default hp).trans (by omega)
  have hwcap : Cfg.default.wcap = 512 := rfl
  have hpktCap : Cfg.default.pktCap = 512 := rfl
  have hquantum : Cfg.default.padQ ∣ Cfg.default.pktCap := by decide
  refine finFault_eq_none hp (by omega) (by omega) (reqLen_le (by decide) hquantum ?_)
  rw [List.length_nil]
  omega

end Sys2Proof.Machine

/-!
SUPPORT. FIN as one function (spec/44_finalize.md R150 to R158). `finRest` is what is left of FIN with some of its micro-operations still
to run: one that completes hands its state on, and at one that raises a fatal fault FIN is over. `State.FinComesTo` says where FIN has come
to and what `W` holds there; from U3, U5, U6 and U8 one check of R192 decides between the fault and the next.
-/

namespace Sys2Proof.Machine

/-! ### The micro-operations still to run -/

/-- FIN with the micro-operations `is` still to run: each once, in order, and the completion (R150). -/
def finRest : List Instr → State → Result
  | [], s => finish s
  | i :: is, s => andThen (exec i s) (finRest is)

/-- FIN of whole bytes with an OPEN packet has all eight to run. -/
theorem exec_fin_eq_finRest {s : State} {d : Buffers} (hr : s.Running d) (ho : s.pktSt = .opened) (hw : d.w.length % 8 = 0) :
    exec .fin s = finRest [.b2b, .crc, .acrc, .brev, .stuf, .wrap, .nrzi, .emit] s.enterFin := by
  rw [exec_fin_eq_stages hr ho hw]
  simp only [runStages, andThen_assoc]
  rfl

/-- FIN of a ragged payload raises `F_ALIGN` before any micro-operation (R152). -/
theorem exec_fin_ragged {s : State} {d : Buffers} (hr : s.Running d) (ho : s.pktSt = .opened) (hw : d.w.length % 8 ≠ 0) :
    exec .fin s = .next (s.enterFin.raiseFatal .align) := by
  change execFin s = _
  rw [execFin, onCommand_running hr.1, if_neg (not_not_intro ho), withData_some hr.2, if_pos hw]

theorem finRest_of_next {i : Instr} {s t : State} (is : List Instr) (h : exec i s = .next t) :
    finRest (i :: is) s = finRest is t := by
  rw [finRest, h, andThen_next]

/-- What the host cannot issue is a micro-operation, and a halted block executes none (R61, R156). -/
theorem exec_halted_of_not_issuable {i : Instr} {s : State} (hi : i.issuable = false) (hf : s.fatal = true) :
    exec i s = .next s := by
  cases i with
  | clr | pkn | apf | txc | apt | fin => cases hi
  | b2b | crc | acrc | brev | stuf | wrap | nrzi | emit => exact onMicro_halted hf _

/-- With micro-operations only still to run, FIN at a halted block changes nothing more (R156). -/
theorem finRest_halted {is : List Instr} {s : State} (hm : ∀ i ∈ is, i.issuable = false) (hf : s.fatal = true) :
    finRest is s = .next s := by
  induction is with
  | nil => exact finish_halted hf
  | cons i is ih =>
    obtain ⟨hi, his⟩ := List.forall_mem_cons.1 hm
    rw [finRest_of_next is (exec_halted_of_not_issuable hi hf), ih his]

/-- At the first fatal fault FIN is over: no later micro-operation runs, and nothing is presented (R156). -/
theorem finRest_of_fault {i : Instr} {is : List Instr} {s : State} {c : FatalCause} (h : exec i s = .next (s.raiseFatal c))
    (hm : ∀ j ∈ is, j.issuable = false) : finRest (i :: is) s = .next (s.raiseFatal c) := by
  rw [finRest_of_next is h, finRest_halted hm rfl]

/-! ### FIN up to each check -/

/-- `s` inside FIN of the payload in `d`, from U2 on: at the stage `n`, `W` holding `w`, the staged text as it was, the other data
registers as in `d'`, and `CRC` the payload's. -/
def State.inFin (s : State) (d : Buffers) (w : Bits) (d' : Buffers) (n : Stage) : State :=
  { s with data := some { d' with w := w, txt := d.txt }, crc := crc16 s.cfg (b2b d.w), stage := n }

/-- FIN at `s` comes to the stage `n` with `w` in `W`, and has the micro-operations `is` still to run. -/
def State.FinComesTo (s : State) (d : Buffers) (is : List Instr) (n : Stage) (w : Bits) : Prop :=
  ∃ d', exec .fin s = finRest is (s.inFin d w d' n)

section
variable {s : State} {d : Buffers}

theorem State.running_inFin (hr : s.Running d) (w : Bits) (d' : Buffers) (n : Stage) :
    (s.inFin d w d' n).Running { d' with w := w, txt := d.txt } :=
  ⟨hr.1, rfl⟩

/-- FIN goes on with what its next micro-operation leaves in `W`. -/
theorem State.FinComesTo.next {i : Instr} {is : List Instr} {n m : Stage} {w w' : Bits} (h : s.FinComesTo d (i :: is) n w)
    (hexec : ∀ d', ∃ d'', exec i (s.inFin d w d' n) = .next (s.inFin d w' d'' m)) : s.FinComesTo d is m w' := by
  obtain ⟨d', hfin⟩ := h
  obtain ⟨d'', hnext⟩ := hexec d'
  exact ⟨d'', hfin.trans (finRest_of_next is hnext)⟩

/-- FIN answers the fault that its next micro-operation raises; what the data registers held is lost with it (R183). -/
theorem State.FinComesTo.fault {i : Instr} {is : List Instr} {n : Stage} {w : Bits} {c : FatalCause}
    (h : s.FinComesTo d (i :: is) n w) (hm : ∀ j ∈ is, j.issuable = false)
    (hexec : ∀ d', exec i (s.inFin d w d' n) = .next ((s.inFin d w d' n).raiseFatal c)) :
    exec .fin s = .next (State.raiseFatal { s with crc := crc16 s.cfg (b2b d.w), stage := n } c) := by
  obtain ⟨d', hfin⟩ := h
  exact hfin.trans (finRest_of_fault (hexec d') hm)

/-- FIN of whole bytes comes to U3 with the CRC of the payload's bytes. -/
theorem finComesTo_acrc (hr : s.Running d) (ho : s.pktSt = .opened) (hw : d.w.length % 8 = 0) :
    s.FinComesTo d [.acrc, .brev, .stuf, .wrap, .nrzi, .emit] .acrc d.w :=
  ⟨{ d with bytes := b2b d.w },
    calc exec .fin s
      _ = finRest [.b2b, .crc, .acrc, .brev, .stuf, .wrap, .nrzi, .emit] s.enterFin := exec_fin_eq_finRest hr ho hw
      _ = finRest [.crc, .acrc, .brev, .stuf, .wrap, .nrzi, .emit]
            { s with data := some { d with bytes := b2b d.w }, stage := .crc } :=
        finRest_of_next _ (b2bConvertsPayload s.enterFin d hr hw)
      _ = _ := finRest_of_next _ (crcCoversBytes _ { d with bytes := b2b d.w } ⟨hr.1, rfl⟩)⟩

/-- Where the trailer fits, FIN comes to U4 with the payload and its CRC. -/
theorem finComesTo_brev (hr : s.Running d) (ho : s.pktSt = .opened) (hw : d.w.length % 8 = 0)
    (hroom : d.w.length + 16 ≤ s.cfg.wcap) :
    s.FinComesTo d [.brev, .stuf, .wrap, .nrzi, .emit] .brev (acrc s.cfg d.w) :=
  (finComesTo_acrc hr ho hw).next fun d' =>
    ⟨{ d' with bytes := b2b (acrc s.cfg d.w) },
      (exec_acrc_of_room (State.running_inFin hr d.w d' .acrc) hroom).trans
        (onWholeBytes_pos ((length_append_crcTrailer_mod d.w _).trans hw) _)⟩

/-- FIN comes to U5 with the bits of every byte reversed. -/
theorem finComesTo_stuf (hr : s.Running d) (ho : s.pktSt = .opened) (hw : d.w.length % 8 = 0)
    (hroom : d.w.length + 16 ≤ s.cfg.wcap) :
    s.FinComesTo d [.stuf, .wrap, .nrzi, .emit] .stuf (brev (acrc s.cfg d.w)) :=
  (finComesTo_brev hr ho hw hroom).next fun d' =>
    ⟨{ d' with bytes := d'.bytes.map bitrev8 }, brevReversesBytes _ _ (State.running_inFin hr (acrc s.cfg d.w) d' .brev)
      ((length_append_crcTrailer_mod d.w _).trans hw)⟩

/-- Where the stuffed sequence fits, FIN comes to U6 with it. -/
theorem State.FinComesTo.stuffed {w : Bits} (h : s.FinComesTo d [.stuf, .wrap, .nrzi, .emit] .stuf w) (hr : s.Running d)
    (hroom : (stuf w).length ≤ s.cfg.wcap) : s.FinComesTo d [.wrap, .nrzi, .emit] .wrap (stuf w) :=
  h.next fun d' =>
    ⟨{ d' with run := some (BitVec.ofNat 3 (runAfter 0 w)) }, exec_stuf_of_room (State.running_inFin hr w d' .stuf) hroom⟩

/-- Where the flags fit, FIN comes to U7 with the wrapped sequence. -/
theorem State.FinComesTo.wrapped {w : Bits} (h : s.FinComesTo d [.wrap, .nrzi, .emit] .wrap w) (hr : s.Running d)
    (hroom : w.length + 46 ≤ s.cfg.wcap) : s.FinComesTo d [.nrzi, .emit] .nrzi (wrap s.cfg w) :=
  h.next fun d' => ⟨d', (exec_wrap_running (State.running_inFin hr w d' .wrap)).trans (if_neg (Nat.not_lt.2 hroom))⟩

/-! ### What FIN answers -/

/-- What FIN leaves for an OPEN packet that holds `q`: the state of the fault it meets, or the frame (R151). -/
def State.afterFin (s : State) (d : Buffers) (q : Bits) : Option (FatalCause × Stage) → State
  | some (c, n) =>
    State.raiseFatal { s with stage := n, crc := if c = .align then s.crc else crc16 s.cfg (b2b d.w) } c
  | none =>
    State.complete
      { s with
        crc := crc16 s.cfg (b2b d.w)
        stage := .idle
        pktBits := some (pad s.cfg (q ++ nrzi (wrap s.cfg (stuf (brev (acrc s.cfg d.w)))))) } d

/-- From U7 on FIN encodes the line and appends it to the packet, which is presented, or does not fit (R139, R153). -/
theorem State.FinComesTo.answer {q w : Bits} (h : s.FinComesTo d [.nrzi, .emit] .nrzi w) (hr : s.Running d)
    (ho : s.pktSt = .opened) (hq : s.pktBits = some q) :
    exec .fin s = .next
      (if reqLen s.cfg (q.length + (w.length + 1)) > s.cfg.pktCap then
        State.raiseFatal { s with crc := crc16 s.cfg (b2b d.w), stage := .emit } .pktCap
      else
        State.complete
          { s with crc := crc16 s.cfg (b2b d.w), stage := .idle, pktBits := some (pad s.cfg (q ++ nrzi w)) } d) := by
  obtain ⟨d', hfin⟩ := h
  obtain ⟨lvl, _, hnrzi⟩ := nrziEncodesLine _ _ (State.running_inFin hr w d' .nrzi)
  have hemit := exec_emit_opened
    (State.running_inFin hr w { d' with line := nrzi w, lvl := some lvl } .emit) ho hq
  rw [nrzi_length] at hemit
  rw [hfin, finRest_of_next _ hnrzi]
  split
  next hover => exact finRest_of_fault (hemit.trans (if_pos hover)) (by decide)
  next hfits =>
    exact (finRest_of_next [] (hemit.trans (if_neg hfits))).trans
      (finish_running (d := { d' with w := w, txt := d.txt, line := nrzi w, lvl := some lvl }) ⟨hr.1, rfl⟩)

/-- FIN with an OPEN packet is the one function that `finFault` selects: one case for each check of R192, in its order. -/
theorem exec_fin_opened {q : Bits} (hr : s.Running d) (ho : s.pktSt = .opened) (hq : s.pktBits = some q) :
    exec .fin s = .next (s.afterFin d q (finFault s.cfg q d.w)) := by
  simp only [finFault]
  split
  next hragged => exact exec_fin_ragged hr ho hragged
  next hwhole =>
  have hw := not_not.1 hwhole
  split
  next hover =>
    exact (finComesTo_acrc hr ho hw).fault (by decide) fun d' =>
      exec_acrc_of_overrun (State.running_inFin hr _ d' .acrc) hover
  next htrailer =>
  have atStuf := finComesTo_stuf hr ho hw (Nat.not_lt.1 htrailer)
  split
  next hover =>
    exact atStuf.fault (by decide) fun d' =>
      exec_stuf_of_overrun (State.running_inFin hr _ d' .stuf) hover
  next hstuffed =>
  have atWrap := atStuf.stuffed hr (Nat.not_lt.1 hstuffed)
  split
  next hover =>
    exact atWrap.fault (by decide) fun d' =>
      (exec_wrap_running (State.running_inFin hr _ d' .wrap)).trans (if_pos hover)
  next hflags =>
  have hanswer := (atWrap.wrapped hr (Nat.not_lt.1 hflags)).answer hr ho hq
  rw [wrap_length] at hanswer
  rw [hanswer]
  split <;> rfl

end

/-- Settles O39. -/
theorem finProducesFrame : Obligations.FinProducesFrame := by
  intro s d q hr ho hq hnone
  rw [exec_fin_opened hr ho hq, hnone]
  rfl

/-- Settles O40. -/
theorem finFaultsAtItsStage : Obligations.FinFaultsAtItsStage := by
  intro s d q c n hr ho hq hfault
  rw [exec_fin_opened hr ho hq, hfault]
  rfl

/-! ### The worked frames -/

/-- Settles O58: the model's `FRAME` computes the bits the rules print. -/
theorem workedFrames : Obligations.WorkedFrames := by
  unfold Obligations.WorkedFrames
  decide +kernel

end Sys2Proof.Machine

/-!
SUPPORT. Laws of whole frames (spec/45_properties.md R167, R170, R171). Six 1 bits in a row need a window without a 0, and the 0 bits of a
wrapped sequence leave room for one only inside its flags. The CRC over payload and trailer runs on a register that the trailer
cancels. What FIN leaves of a packet is a function of the configuration, the packet and the payload.
-/

namespace Sys2Proof.Machine

/-! ### Bit stuffing -/

/-- In a window of `n` ones every bit is a 1. -/
theorem getElem?_of_ones_window {w : Bits} {j n k : Nat} (h : (w.drop j).take n = List.replicate n true) (hj : j ≤ k)
    (hk : k < j + n) : w[k]? = some true := by
  obtain ⟨i, rfl⟩ := Nat.exists_eq_add_of_le hj
  have hi : i < n := by omega
  calc w[j + i]?
    _ = ((w.drop j).take n)[i]? := by rw [List.getElem?_take_of_lt hi, List.getElem?_drop]
    _ = some true := by rw [h, List.getElem?_replicate_of_lt hi]

/-- Six 1 bits do not start anywhere in a sequence without them, nor at a 0 that follows it. -/
theorem not_ones_prefix_drop {s : Bits} (hs : ¬hasSixOnes s) (t : Bits) {j : Nat} (hj : j ≤ s.length) :
    ¬List.replicate 6 true <+: (s ++ false :: t).drop j := by
  intro h
  rw [List.drop_append_of_le_length hj] at h
  exact hs ((ones_prefix_of_append h).isInfix.trans (List.drop_suffix j s).isInfix)

/-- From the first training bit to the first bit of the opening flag every other bit is a 0 (R130). -/
theorem wrap_getElem?_odd (cfg : Cfg) (s : Bits) {i : Nat} (hi : i ≤ 12) : (wrap cfg s)[3 + 2 * i]? = some false := by
  obtain htrain | rfl : i < 12 ∨ i = 12 := by omega
  · rw [wrap_getElem?_train cfg s (by omega), Nat.mul_mod_right]
    rfl
  · rfl

/-- The opening flag's last bit is a 0 (R130). -/
theorem wrap_getElem?_openingFlag_last (cfg : Cfg) (s : Bits) : (wrap cfg s)[34]? = some false := rfl

/-- The closing flag's last bit is a 0 (R130). -/
theorem wrap_getElem?_closingFlag_last (cfg : Cfg) (s : Bits) : (wrap cfg s)[35 + s.length + 7]? = some false := by
  rw [← List.getElem?_drop, wrap_drop_data]
  rfl

/-- R167 (c): in the wrapped sequence of data without six 1 bits in a row, these start only at the second bit of a flag. Before the
opening flag a 0 is never more than three bits away, and behind the closing flag six bits do not fit. -/
theorem sixOnes_wrap {cfg : Cfg} {s : Bits} (hs : ¬hasSixOnes s) {j : Nat}
    (h : ((wrap cfg s).drop j).take 6 = List.replicate 6 true) : j = 28 ∨ j = 36 + s.length := by
  have hnot {k : Nat} (hzero : (wrap cfg s)[k]? = some false) : k < j ∨ j + 6 ≤ k := by
    by_contra hin
    rw [getElem?_of_ones_window h (by omega) (by omega)] at hzero
    cases hzero
  have hdata : ¬(35 ≤ j ∧ j ≤ 35 + s.length) := by
    rintro ⟨h35, hj⟩
    obtain ⟨i, rfl⟩ := Nat.exists_eq_add_of_le h35
    rw [← List.drop_drop, wrap_drop_preamble] at h
    exact not_ones_prefix_drop hs _ (Nat.le_of_add_le_add_left hj) (h ▸ List.take_prefix 6 _)
  have hend : j + 5 < s.length + 46 := by
    rw [← wrap_length cfg s]
    exact (List.getElem?_eq_some_iff.1 (getElem?_of_ones_window h (Nat.le_add_right j 5) (by omega))).1
  have hfirst := hnot (wrap_getElem?_odd cfg s (i := 0) (by omega))
  have htrain (hj : j ≤ 27) := hnot (wrap_getElem?_odd cfg s (i := (j - 2) / 2) (by omega))
  have hopen := hnot (wrap_getElem?_openingFlag_last cfg s)
  have hclose := hnot (wrap_getElem?_closingFlag_last cfg s)
  omega

/-- Settles O50. -/
theorem stuffingIsCorrect : Obligations.StuffingIsCorrect := by
  intro cfg s
  have hsix : ¬hasSixOnes (stuf s) := not_hasSixOnes_stufFrom (Nat.zero_le 4) s
  have hlen := stufFrom_length_le 0 s
  rw [Nat.zero_add] at hlen
  exact ⟨hsix, unstufFrom_stufFrom (Nat.zero_le 4) s, fun _ => sixOnes_wrap hsix, stufFrom_length_ge 0 s, hlen⟩

/-! ### The receiver's check -/

/-- The polynomial is XORed in by the bit that is shifted out. -/
theorem fcsShift_eq_xor (r : BitVec 16) : fcsShift r = r >>> 1 ^^^ bif r.getLsbD 0 then 0x8408 else 0 := by
  rw [fcsShift]
  cases r.getLsbD 0
  · exact BitVec.xor_zero.symm
  · rfl

/-- The right shift is linear. -/
theorem fcsShift_xor (a b : BitVec 16) : fcsShift (a ^^^ b) = fcsShift a ^^^ fcsShift b := by
  have hpoly : ∀ x y : Bool, (bif x ^^ y then 0x8408 else 0) = (bif x then 0x8408 else 0) ^^^ bif y then (0x8408 : BitVec 16) else 0 := by
    decide
  simp only [fcsShift_eq_xor, BitVec.getLsbD_xor, BitVec.ushiftRight_xor_distrib, hpoly]
  ac_rfl

theorem fcsShifts_xor (n : Nat) (a b : BitVec 16) : fcsShifts n (a ^^^ b) = fcsShifts n a ^^^ fcsShifts n b := by
  induction n generalizing a b with
  | zero => rfl
  | succ n ih => rw [fcsShifts, fcsShift_xor, ih, fcsShifts, fcsShifts]

theorem fcsShifts_add (m n : Nat) (r : BitVec 16) : fcsShifts (m + n) r = fcsShifts n (fcsShifts m r) := by
  induction m generalizing r with
  | zero => rw [Nat.zero_add, fcsShifts]
  | succ m ih => rw [Nat.succ_add, fcsShifts, ih, fcsShifts]

/-- While only 0 bits are shifted out, the polynomial is not XORed in. -/
theorem fcsShifts_of_low_zeros {n : Nat} {r : BitVec 16} (h : ∀ i < n, r.getLsbD i = false) : fcsShifts n r = r >>> n := by
  induction n generalizing r with
  | zero => rfl
  | succ n ih =>
    have hshift : fcsShift r = r >>> 1 := by rw [fcsShift, h 0 n.succ_pos]; rfl
    have hlow : ∀ i < n, (r >>> 1).getLsbD i = false := fun i hi => by
      rw [BitVec.getLsbD_ushiftRight]
      exact h (1 + i) (by omega)
    rw [fcsShifts, hshift, ih hlow, ← BitVec.shiftRight_add, Nat.add_comm]

/-- The two bytes of a word, low byte first as in the trailer, go into the register as the word and sixteen shifts: eight shifts bring
the high byte, untouched, to where its own step takes it in. -/
theorem fcsByte_fcsByte (r c : BitVec 16) :
    fcsByte (fcsByte r (c.extractLsb' 0 8)) (c.extractLsb' 8 8) = fcsShifts 16 (r ^^^ c) := by
  have hhigh : fcsShifts 8 (c >>> 8 <<< 8) = (c.extractLsb' 8 8).setWidth 16 := by
    rw [fcsShifts_of_low_zeros fun i hi => by simp [hi]]
    refine BitVec.eq_of_getLsbD_eq fun i hi => ?_
    simp [hi, show 8 + i < 16 ↔ i < 8 by omega]
  have hword : c = (c.extractLsb' 0 8).setWidth 16 ^^^ (c >>> 8 <<< 8) := by
    refine BitVec.eq_of_getLsbD_eq fun i hi => ?_
    by_cases hlow : i < 8
    · simp [hi, hlow]
    · simp [hi, hlow, Nat.add_sub_cancel' (Nat.le_of_not_lt hlow)]
  calc fcsByte (fcsByte r (c.extractLsb' 0 8)) (c.extractLsb' 8 8)
    _ = fcsShifts 8 (fcsShifts 8 (r ^^^ (c.extractLsb' 0 8).setWidth 16) ^^^ fcsShifts 8 (c >>> 8 <<< 8)) := by
        rw [hhigh]; rfl
    _ = fcsShifts 16 (r ^^^ c) := by
        rw [← fcsShifts_xor, ← fcsShifts_add, BitVec.xor_assoc, ← hword]

/-- The right-shifting CRC over bytes and their own CRC value, low byte first, is the same for all bytes: the value is the register with
every bit flipped, so that it leaves sixteen 1 bits of it, whatever they were. -/
theorem fcs16_append_trailer (bytes : List Byte) :
    fcs16 (bytes ++ [(fcs16 bytes).extractLsb' 0 8, (fcs16 bytes).extractLsb' 8 8]) = 0x0F47 := by
  have hcancel (r : BitVec 16) : r ^^^ (r ^^^ 0xFFFF) = 0xFFFF := by
    rw [← BitVec.xor_assoc, BitVec.xor_self, BitVec.zero_xor]
  calc fcs16 (bytes ++ [(fcs16 bytes).extractLsb' 0 8, (fcs16 bytes).extractLsb' 8 8])
    _ = fcsShifts 16 (bytes.foldl fcsByte 0xFFFF ^^^ fcs16 bytes) ^^^ 0xFFFF := by
        rw [fcs16, List.foldl_append, List.foldl_cons, List.foldl_cons, List.foldl_nil, fcsByte_fcsByte]
    _ = fcsShifts 16 0xFFFF ^^^ 0xFFFF := by rw [fcs16, hcancel]
    _ = 0x0F47 := by decide +kernel

/-- Settles O59. -/
theorem receiverCheckConstant : Obligations.ReceiverCheckConstant := by
  intro p hp
  rw [acrc, b2b_append hp, b2b_crcTrailer, crc16_default, crc16_default, fcs16_append_trailer]

/-! ### What FIN depends on -/

/-- Settles O42: both blocks meet the same case of `finFault`, and what it leaves of the packet, the fault and, from U2 on, the CRC is
made of the configuration, the packet and the payload. -/
theorem finDependsOnPayloadOnly : Obligations.FinDependsOnPayloadOnly := by
  intro s s' t t' d d' q hr hr' hcfg hw hq hq' ho ho' ht ht'
  rw [exec_fin_opened hr ho hq] at ht
  rw [exec_fin_opened hr' ho' hq', ← hcfg, ← hw] at ht'
  cases ht
  cases ht'
  cases finFault s.cfg q d.w with
  | none => simp [State.afterFin, hr.1, hr'.1, hcfg, hw]
  | some fault =>
    obtain ⟨c, n⟩ := fault
    by_cases hc : c = .align
    · simp [State.afterFin, ho, ho', hc]
    · simp [State.afterFin, ho, ho', hcfg, hw, hc]

end Sys2Proof.Machine

/-!
SUPPORT. Errors and faults (spec/60_exceptions.md): what a fatal fault takes, what a halted block and an illegal word change, and how an
instruction can end at a running block (`State.Ends`). For the last, one rule for each guard and branch a meaning is made of; a
response of 0 without a fatal fault is then `fail` at the state that `State.failsFrom` names.
-/

namespace Sys2Proof.Machine

/-! ### Every step completes -/

/-- Settles O15. -/
theorem stepAlwaysCompletes : Obligations.StepAlwaysCompletes := by
  intro s h
  obtain ⟨t, ht, _⟩ := step_inv h
  exact ⟨t, ht⟩

/-! ### Taking a fatal fault -/

/-- No space but the packet has cells where the data registers hold no values (R27, R183). -/
theorem State.cells_eq_none {s : State} (hd : s.data = none) {sp : Space} (hsp : sp ≠ .pkt) : s.cells sp = none := by
  cases sp with
  | w | txt | bytes | line => simp only [State.cells, hd, Option.map_none]
  | pkt => exact absurd rfl hsp

/-- Settles O17. -/
theorem fatalFaultEntry : Obligations.FatalFaultEntry := by
  intro s c
  exact ⟨rfl, rfl, rfl, rfl, rfl, rfl, rfl, fun sp hsp => State.cells_eq_none rfl hsp, rfl, rfl, rfl,
    fun ho => ⟨if_pos ho, if_pos ho, if_pos ho⟩, fun hn => ⟨if_neg hn, if_neg hn, if_neg hn⟩⟩

/-! ### The halted block -/

/-- A halted block refuses a command, whichever it is (R80, R184). -/
theorem exec_halted_of_issuable {i : Instr} {s : State} (hi : i.issuable = true) (hf : s.fatal = true) :
    exec i s = .next s.refuseHalted := by
  cases i with
  | clr | pkn | apf | txc | apt | fin => exact onCommand_halted hf _
  | b2b | crc | acrc | brev | stuf | wrap | nrzi | emit => cases hi

/-- Settles O9. -/
theorem haltedBlockExecutesNothing : Obligations.HaltedBlockExecutesNothing := by
  intro i s hf
  cases hi : i.issuable with
  | true => exact exec_halted_of_issuable hi hf
  | false => exact exec_halted_of_not_issuable hi hf

/-- A halted block refuses every word, legal or not (R184). -/
theorem step_command_halted {s : State} {w : BitVec 48} {rest : List Input} (hf : s.fatal = true)
    (hin : s.input = .command w :: rest) : step s = .next s.takeInput.refuseHalted := by
  obtain ⟨_, hs⟩ | ⟨hrun, _⟩ | ⟨_, hrun, _⟩ := step_command_cases (.inl hf) hin
  · exact hs
  all_goals exact absurd (hf.symm.trans hrun) nofun

/-- A halted block is running after a step exactly if the step took a reset event (R184, R210). -/
theorem step_leaves_halted_iff {s t : State} (hf : s.fatal = true) (h : step s = .next t) :
    t.fatal = false ↔ ∃ rest, s.input = .reset :: rest := by
  rcases step_cases s with ⟨hin, hs⟩ | ⟨rest, hin, hs⟩ | ⟨w, rest, hin, _, hs⟩ | ⟨_, _, _, _, hrun, _⟩ |
    ⟨_, _, _, _, hrun, _⟩ | ⟨_, hrun, _⟩
  · obtain rfl := Host.Outcome.next.inj (hs.symm.trans h)
    simp [hf, hin]
  · obtain rfl := Host.Outcome.next.inj (hs.symm.trans h)
    exact iff_of_true rfl ⟨rest, hin⟩
  · obtain rfl := Host.Outcome.next.inj (hs.symm.trans h)
    simp [hf, hin]
  all_goals exact absurd (hf.symm.trans hrun) nofun

/-- Settles O8. -/
theorem haltedBlockRefusesCommands : Obligations.HaltedBlockRefusesCommands := by
  refine fun s hf => ⟨?_, fun t => step_leaves_halted_iff hf⟩
  intro w rest hin
  have htail : s.input.tail = rest := congrArg List.tail hin
  rw [step_command_halted hf hin, ← htail]
  rfl

/-! ### Recoverable errors -/

/-- Settles O7. -/
theorem illegalWordFails : Obligations.IllegalWordFails := by
  intro s w rest e hf hi hin hdec
  have htail : s.input.tail = rest := congrArg List.tail hin
  have hstep : step s = .next (s.takeInput.fail .illegal) := by
    simp only [step, action_idle hi, portAction, hin, hf, hdec, Bool.false_eq_true, ↓reduceIte]
  rw [hstep, ← htail]
  rfl

/-- FIN without an OPEN packet fails with `E_NOPKT` (R187). -/
theorem exec_fin_noPacket {s : State} (hf : s.fatal = false) (hn : s.pktSt ≠ .opened) :
    exec .fin s = .next (s.fail .noPkt) := by
  change execFin s = _
  rw [execFin, onCommand_running hf, if_pos hn]

/-- Settles O38. -/
theorem finWithoutPacketFails : Obligations.FinWithoutPacketFails :=
  fun _ hf hn => exec_fin_noPacket hf hn

/-- How a result can end that is reached from `s` and, where it is a recoverable error, fails at `u`: a stop, a fatal fault, no
response (a micro-operation), success, or `fail` (R80, R182). -/
inductive State.Ends (s u : State) : Result → Prop
  | stops (f : Fault) : s.Ends u (.fault f)
  | refuses (f : Refusal) : s.Ends u (.refused f)
  | halts {t : State} (h : t.fatal = true) : s.Ends u (.next t)
  | silent {t : State} (h : t.out = s.out) : s.Ends u (.next t)
  | succeeds (v : State) : s.Ends u (.next v.succeed)
  | fails (e : Err) : s.Ends u (.next (u.fail e))

/-- A response of 0 without a fatal fault comes from `fail`: success responds 1, and the other ends do not respond. -/
theorem State.Ends.eq_fail {s u t : State} {e : Err} (h : s.Ends u (.next t)) (hu : u.out = s.out) (hf : t.fatal = false)
    (hout : t.out = s.out ++ [⟨false, e⟩]) : t = u.fail e := by
  cases h with
  | halts h => exact absurd (hf.symm.trans h) nofun
  | silent h => exact absurd (h.symm.trans hout) (by simp)
  | succeeds v =>
    have hlast := congrArg List.getLast? hout
    simp at hlast
  | fails e' =>
    rw [State.fail_out, hu] at hout
    obtain rfl : e' = e := by simpa using hout
    rfl

section
variable {s u : State}

theorem State.Ends.raiseFatal (v : State) (c : FatalCause) : s.Ends u (.next (v.raiseFatal c)) := .halts rfl

theorem State.Ends.onCommand {k : Result} (hf : s.fatal = false) (hk : s.Ends u k) : s.Ends u (onCommand s k) := by
  rwa [onCommand_running hf]

theorem State.Ends.onMicro {k : Result} (hf : s.fatal = false) (hk : s.Ends u k) : s.Ends u (onMicro s k) := by
  rwa [onMicro_running hf]

theorem State.Ends.withData {v : State} {k : Buffers → Result} (hk : ∀ d, v.data = some d → s.Ends u (k d)) :
    s.Ends u (withData v k) := by
  cases hd : v.data with
  | none => rw [withData_none hd]; exact .stops _
  | some d => rw [withData_some hd]; exact hk d hd

theorem State.Ends.onWholeBytes {w : Bits} {k : Result} (hk : s.Ends u k) : s.Ends u (onWholeBytes w k) := by
  by_cases hw : w.length % 8 = 0
  · rwa [onWholeBytes_pos hw]
  · rw [onWholeBytes_neg hw]; exact .stops _

theorem State.Ends.ite {p : Prop} [Decidable p] {k l : Result} (hk : p → s.Ends u k) (hl : ¬p → s.Ends u l) :
    s.Ends u (if p then k else l) := by
  split
  next hp => exact hk hp
  next hp => exact hl hp

/-- A rule that raises a fatal fault where a check fails. -/
theorem State.Ends.check {p : Prop} [Decidable p] {v : State} {c : FatalCause} {k : Result} (hk : s.Ends u k) :
    s.Ends u (if p then .next (v.raiseFatal c) else k) :=
  .ite (fun _ => .raiseFatal v c) fun _ => hk

theorem State.Ends.appendPayload (v : State) (d : Buffers) (bits : Bits) : s.Ends u (.next (appendPayload v d bits)) := by
  obtain ⟨_, heq⟩ | ⟨_, heq⟩ := appendPayload_cases v d bits
  · rw [heq]; exact .succeeds _
  · rw [heq]; exact .raiseFatal v .overrun

/-- What ends with the completion of FIN is no recoverable error. -/
theorem State.Ends.thenFinish (r : Result) : s.Ends u (andThen r finish) := by
  cases r with
  | fault f => exact .stops f
  | refused f => exact .refuses f
  | next v =>
    rw [andThen_next]
    cases hf : v.fatal with
    | true => rw [finish_halted hf]; exact .halts hf
    | false =>
      rw [finish, onMicro_running hf]
      exact .withData fun d _ => .succeeds _

theorem ends_execFin (hf : s.fatal = false) : s.Ends s (execFin s) :=
  .onCommand hf <| .ite (fun _ => .fails .noPkt) fun _ => .withData fun _ _ => .check (.thenFinish _)

theorem ends_execEmit (hf : s.fatal = false) : s.Ends s (execEmit s) := by
  refine .onMicro hf (.withData fun d _ => .ite (fun _ => .stops _) fun _ => ?_)
  cases s.pktBits with
  | none => exact .stops _
  | some q => exact .check (.silent rfl)

end

/-- The state at which a recoverable error of `i` calls `fail`: TXC has set `TOVF`, APT has consumed the staged string, and every
other instruction has done nothing (R182). -/
def State.failsFrom (s : State) (i : Instr) : State :=
  match i with
  | .txc _ => { s with tovf := true }
  | .apt _ => { s with data := s.data.map fun d : Buffers => { d with txt := [] }, tovf := false }
  | _ => s

/-- How an instruction ends at a running block. -/
theorem exec_ends (i : Instr) {s : State} (hf : s.fatal = false) : s.Ends (s.failsFrom i) (exec i s) := by
  cases i with
  | clr => exact .onCommand hf (.withData fun _ _ => .succeeds _)
  | pkn ch => exact .onCommand hf (.succeeds _)
  | apf value width => exact .onCommand hf (.withData fun d _ => .check (.appendPayload s d _))
  | txc c => exact .onCommand hf (.withData fun _ _ => .ite (fun _ => .fails .textLen) fun _ => .succeeds _)
  | apt maxChars =>
    refine .onCommand hf (.withData fun d hd => .ite (fun _ => ?_) fun _ => .appendPayload _ _ _)
    have consumed : s.failsFrom (.apt maxChars) = s.consumeText d := by
      simp only [State.failsFrom, State.consumeText, hd, Option.map_some]
    rw [consumed]
    exact .fails .textLen
  | fin => exact ends_execFin hf
  | b2b => exact .onMicro hf (.withData fun _ _ => .onWholeBytes (.silent rfl))
  | crc => exact .onMicro hf (.withData fun _ _ => .silent rfl)
  | acrc => exact .onMicro hf (.withData fun _ _ => .check (.onWholeBytes (.silent rfl)))
  | brev => exact .onMicro hf (.withData fun _ _ => .onWholeBytes (.silent rfl))
  | stuf => exact .onMicro hf (.withData fun _ _ => .check (.silent rfl))
  | wrap => exact .onMicro hf (.withData fun _ _ => .check (.silent rfl))
  | nrzi => exact .onMicro hf (.withData fun _ _ => .silent rfl)
  | emit => exact ends_execEmit hf

theorem State.failsFrom_of_ne {i : Instr} (s : State) (htxc : ∀ c, i ≠ .txc c) (hapt : ∀ n, i ≠ .apt n) :
    s.failsFrom i = s := by
  cases i with
  | txc c => exact absurd rfl (htxc c)
  | apt n => exact absurd rfl (hapt n)
  | clr | pkn | apf | fin | b2b | crc | acrc | brev | stuf | wrap | nrzi | emit => rfl

/-- `u` agrees with `s` in the payload, the packet, `CRC` and `STAGE`, and has responded to nothing more. -/
structure State.KeepsPayload (s u : State) : Prop where
  w : u.data.map Buffers.w = s.data.map Buffers.w
  pktSt : u.pktSt = s.pktSt
  pktBits : u.pktBits = s.pktBits
  pktChan : u.pktChan = s.pktChan
  crc : u.crc = s.crc
  stage : u.stage = s.stage
  out : u.out = s.out

theorem State.keepsPayload_failsFrom (s : State) (i : Instr) : s.KeepsPayload (s.failsFrom i) := by
  cases i with
  | apt n => exact ⟨by cases hd : s.data <;> simp [State.failsFrom, hd], rfl, rfl, rfl, rfl, rfl, rfl⟩
  | clr | pkn | apf | txc | fin | b2b | crc | acrc | brev | stuf | wrap | nrzi | emit =>
    exact ⟨rfl, rfl, rfl, rfl, rfl, rfl, rfl⟩

/-- `PLEN` is the length of `W` (R12). -/
theorem State.plen_congr {s t : State} (hw : t.data.map Buffers.w = s.data.map Buffers.w) : t.plen = s.plen := by
  have plen_eq (u : State) : u.plen = (u.data.map Buffers.w).map fun w => BitVec.ofNat 16 w.length := by
    simp only [State.plen, Option.map_map, Function.comp_def]
  rw [plen_eq, plen_eq, hw]

/-- Settles O47: such an instruction ended in `fail` at the state `State.failsFrom` names, which keeps the payload. -/
theorem recoverableErrorKeepsPayload : Obligations.RecoverableErrorKeepsPayload := by
  refine ⟨fun _ _ => rfl, fun i s t e hf h htf hout => ?_⟩
  have kept := s.keepsPayload_failsFrom i
  have ends : s.Ends (s.failsFrom i) (.next t) := h ▸ exec_ends i hf
  obtain rfl : t = (s.failsFrom i).fail e := ends.eq_fail kept.out htf hout
  refine ⟨rfl, fun htxc hapt => ?_, ?_, ?_, kept.w, State.plen_congr kept.w, kept.pktSt, kept.pktBits, kept.pktChan,
    kept.crc, kept.stage⟩
  · rw [s.failsFrom_of_ne htxc hapt]
  · rintro c rfl
    rfl
  · rintro n rfl
    rfl

end Sys2Proof.Machine

/-!
SUPPORT. Reset (spec/70_reset_and_hazards.md R210): what a step does with a reset event at the port, in a running and in a halted block.
-/

namespace Sys2Proof.Machine

/-- A block that is halted or executes no FIN looks at its port only (R6, R67). -/
theorem action_of_port {s : State} (hport : s.fatal = true ∨ s.stage = .idle) : s.action = portAction s :=
  hport.elim action_halted action_idle

/-- A reset event presented to such a block is taken from the port and carried out (R210). -/
theorem step_reset {s : State} {rest : List Input} (hport : s.fatal = true ∨ s.stage = .idle)
    (hin : s.input = .reset :: rest) : step s = .next s.takeInput.resetEvent := by
  simp only [step, action_of_port hport, portAction, hin]

/-- Settles O11: the step takes the event from the port, and `State.resetEvent` writes every register of R30. -/
theorem resetReplacesState : Obligations.ResetReplacesState := by
  intro s rest hport hin
  have htail : s.input.tail = rest := congrArg List.tail hin
  rw [step_reset hport hin, ← htail]
  rfl

end Sys2Proof.Machine
